-- ==== Sys2Proof/Word.lean ====
section
/-!
DEFINITION. The plain data types of BSCORE: bytes, register words, the width bit's two values and a
byte range of data memory.
-/

namespace Sys2Proof

/-- A data-memory byte (20_memory.md R60). -/
abbrev Byte := BitVec 8

/-- A 64-bit register of the register block (10_state.md R20). -/
abbrev Word := BitVec 64

/-- The word and value width a command's W bit selects (30_encoding.md R87). -/
inductive Width where
  | w32
  | w64
deriving DecidableEq, Repr

/-- A buffer (addr, len): the bytes addr .. addr+len-1 of data memory (00_scope.md R11). Addresses
are mathematical integers, so a buffer can reach past the data space; 20_memory.md R65 tests that. -/
structure Buf where
  addr : Nat
  len : Nat
deriving DecidableEq, Repr

end Sys2Proof
end

