-- ==== Sys2Proof/Config.lean ====
section
/-!
DEFINITION. What the platform and the implementation fix (00_scope.md R6) and the free values.

The numeric parameters are plain data and stand in `State.cfg`, so that a statement about every
state is a statement about every platform (entry 1). The compressors' functions and the values that
the spec leaves open are opaque: nothing can be proved of them beyond their being functions.
-/

namespace Sys2Proof

/-- The build and platform parameters of 00_scope.md R6. -/
structure Params where
  /-- N_ALGO, the number of external compressors, 1 to 255. -/
  nAlgo : Nat
  /-- ADDR_BITS, the width of a data address, 32 to 64. -/
  addrBits : Nat
  /-- REG_BASE, the host address of the register block, a multiple of 256. -/
  regBase : Nat
  /-- The byte ranges for which Mapped is false (20_memory.md R66). -/
  refused : List Buf
  /-- Regions with read side effects or non-idempotent writes (20_memory.md R70,
  93_implementation_defined.md X12). -/
  sideEffect : List Buf
deriving DecidableEq, Repr

/-- The parameters of the machine `State.reset`: the spec's defaults N_ALGO = 2 and ADDR_BITS = 64
(00_scope.md R6). REG_BASE = 0, nothing refused and no side-effect region are DESIGN CHOICES
(entry 1): the spec gives no default. -/
def Params.default : Params :=
  { nAlgo := 2, addrBits := 64, regBase := 0, refused := [], sideEffect := [] }

/-- A response on the compressor port (43_channel_compressor.md R166). -/
inductive Response where
  | ok (bytes : List Byte)
  | fail
deriving DecidableEq, Repr, Inhabited

/-- Compress_k (00_scope.md R6): a fixed function of the tag and the bytes, otherwise unknown. -/
opaque Config.compress : Nat → List Byte → Response

/-- Decompress_k (00_scope.md R6): a fixed function of the tag and the bytes, otherwise unknown. -/
opaque Config.decompress : Nat → List Byte → Response

/-- Free value: the byte at an address whose contents the spec leaves open (60_exceptions.md R183 (b),
70_reset_and_hazards.md R202, 20_memory.md R74). First argument: `State.fresh`; second: the address. -/
opaque Config.freeByte : Nat → Nat → Byte

/-- Free value: what a result register receives under a race (20_memory.md R74). First argument:
`State.fresh`; second: the register's byte offset. -/
opaque Config.freeWord : Nat → Nat → Word

/-- Free value: which of several refused addresses ERR_ADDR reports (60_exceptions.md R184).
Argument: `State.fresh`. -/
opaque Config.freeChoice : Nat → Nat

end Sys2Proof
end

