-- ==== Sys2Proof/Syntax.lean ====
section
/-!
DEFINITION. The 18 commands of spec/opcode_table.json (30_encoding.md R88), their mnemonics (R91) and
the fields of a command word (R85). A command has no operand fields: its operands are registers.
-/

namespace Sys2Proof

/-- The commands: one constructor per row of spec/opcode_table.json. -/
inductive Instr where
  | bsWr32
  | bsWr64
  | bsRd32
  | bsRd64
  | bsPack32
  | bsPack64
  | bsUnpack32
  | bsUnpack64
  | ddEnc32
  | ddEnc64
  | ddDec32
  | ddDec64
  | fsSplit32
  | fsSplit64
  | fsRecomb32
  | fsRecomb64
  | ccSelect
  | ccExpand
deriving DecidableEq, Repr

/-- The mnemonics of 30_encoding.md R91. -/
def Instr.mnemonic : Instr → String
  | .bsWr32 => "BS.WR.32"
  | .bsWr64 => "BS.WR.64"
  | .bsRd32 => "BS.RD.32"
  | .bsRd64 => "BS.RD.64"
  | .bsPack32 => "BS.PACK.32"
  | .bsPack64 => "BS.PACK.64"
  | .bsUnpack32 => "BS.UNPACK.32"
  | .bsUnpack64 => "BS.UNPACK.64"
  | .ddEnc32 => "DD.ENC.32"
  | .ddEnc64 => "DD.ENC.64"
  | .ddDec32 => "DD.DEC.32"
  | .ddDec64 => "DD.DEC.64"
  | .fsSplit32 => "FS.SPLIT.32"
  | .fsSplit64 => "FS.SPLIT.64"
  | .fsRecomb32 => "FS.RECOMB.32"
  | .fsRecomb64 => "FS.RECOMB.64"
  | .ccSelect => "CC.SELECT"
  | .ccExpand => "CC.EXPAND"

/-- BS.WR at the width W. -/
def Instr.bsWr : Width → Instr
  | .w32 => .bsWr32
  | .w64 => .bsWr64

/-- BS.RD at the width W. -/
def Instr.bsRd : Width → Instr
  | .w32 => .bsRd32
  | .w64 => .bsRd64

/-- BS.PACK at the width W. -/
def Instr.bsPack : Width → Instr
  | .w32 => .bsPack32
  | .w64 => .bsPack64

/-- BS.UNPACK at the width W. -/
def Instr.bsUnpack : Width → Instr
  | .w32 => .bsUnpack32
  | .w64 => .bsUnpack64

/-- DD.ENC at the width W. -/
def Instr.ddEnc : Width → Instr
  | .w32 => .ddEnc32
  | .w64 => .ddEnc64

/-- DD.DEC at the width W. -/
def Instr.ddDec : Width → Instr
  | .w32 => .ddDec32
  | .w64 => .ddDec64

/-- FS.SPLIT at the width W. -/
def Instr.fsSplit : Width → Instr
  | .w32 => .fsSplit32
  | .w64 => .fsSplit64

/-- FS.RECOMB at the width W. -/
def Instr.fsRecomb : Width → Instr
  | .w32 => .fsRecomb32
  | .w64 => .fsRecomb64

/-- The fields of a value written to CMD (30_encoding.md R85): OPC, W, and everything that must be 0
(RSV together with the upper half CMD[63:32]). -/
structure CmdFields where
  opc : BitVec 8
  w : Bool
  rsv : BitVec 55
deriving DecidableEq, Repr

/-- Why a CMD value is illegal (30_encoding.md R89). -/
inductive Illegal where
  | reservedBits
  | badOpcode
deriving DecidableEq, Repr

end Sys2Proof
end

