-- ==== Sys2Proof/WellFormed.lean ====
section
/-!
DEFINITION. Which command-word fields are legal (30_encoding.md R89) and which parameters are legal
(00_scope.md R6). An `Instr` has no operand, so every `Instr` is a well-formed command; what can be
ill-formed is the word written to CMD.
-/

namespace Sys2Proof

/-- The opcodes that take both widths (30_encoding.md R87, R88). -/
def widthOpcodes : List (BitVec 8) := [0x01, 0x02, 0x03, 0x04, 0x10, 0x11, 0x20, 0x21]

/-- The byte-oriented opcodes, whose W bit must be 0 (30_encoding.md R87, R89 (3)). -/
def byteOpcodes : List (BitVec 8) := [0x30, 0x31]

/-- The three tests of 30_encoding.md R89 in their order: the first that holds names the sub-code. -/
def CmdFields.illegal (f : CmdFields) : Option Illegal :=
  if f.rsv ≠ 0 then some .reservedBits
  else if f.opc ∉ widthOpcodes ∧ f.opc ∉ byteOpcodes then some .badOpcode
  else if f.opc ∈ byteOpcodes ∧ f.w = true then some .reservedBits
  else none

/-- A command word's fields are well-formed when no test of R89 holds. -/
def CmdFields.wellFormed (f : CmdFields) : Bool := f.illegal.isNone

/-- The parameter ranges of 00_scope.md R6: 1 ≤ N_ALGO ≤ 255, 32 ≤ ADDR_BITS ≤ 64, REG_BASE 256-byte
aligned. -/
def Params.wellFormed (p : Params) : Bool :=
  decide (1 ≤ p.nAlgo) && decide (p.nAlgo ≤ 255) && decide (32 ≤ p.addrBits) &&
    decide (p.addrBits ≤ 64) && decide (p.regBase % 256 = 0)

end Sys2Proof
end

