-- ==== Sys2Proof/Decode.lean ====
section
/-!
DEFINITION. The decoder of a CMD value (30_encoding.md R85 to R90), total and rejecting by name, and
the encoder. The words come from the opcode map R88.
-/

namespace Sys2Proof

/-- One line of the opcode map 30_encoding.md R88: OPC, the command of the W = 0 word and the command
of the W = 1 word (`none`: illegal). -/
structure OpcodeRow where
  opc : BitVec 8
  w0 : Instr
  w1 : Option Instr
deriving DecidableEq, Repr

/-- The opcode map of 30_encoding.md R88. -/
def opcodeMap : List OpcodeRow :=
  [ ⟨0x01, .bsWr32, some .bsWr64⟩,
    ⟨0x02, .bsRd32, some .bsRd64⟩,
    ⟨0x03, .bsPack32, some .bsPack64⟩,
    ⟨0x04, .bsUnpack32, some .bsUnpack64⟩,
    ⟨0x10, .ddEnc32, some .ddEnc64⟩,
    ⟨0x11, .ddDec32, some .ddDec64⟩,
    ⟨0x20, .fsSplit32, some .fsSplit64⟩,
    ⟨0x21, .fsRecomb32, some .fsRecomb64⟩,
    ⟨0x30, .ccSelect, none⟩,
    ⟨0x31, .ccExpand, none⟩ ]

/-- The fields of a CMD value (30_encoding.md R85): OPC = c[7:0], W = c[8], the rest must be 0. -/
def cmdFields (c : Word) : CmdFields :=
  { opc := c.extractLsb' 0 8, w := c.getLsbD 8, rsv := c.extractLsb' 9 55 }

/-- The decoder on fields: the tests of 30_encoding.md R89 in their order. -/
def decodeFields (f : CmdFields) : Except Illegal Instr :=
  if f.rsv ≠ 0 then .error .reservedBits
  else
    match opcodeMap.find? (fun r => r.opc == f.opc) with
    | none => .error .badOpcode
    | some r =>
      match f.w, r.w1 with
      | false, _ => .ok r.w0
      | true, some i => .ok i
      | true, none => .error .reservedBits

/-- The decoder: the command a CMD value issues, or why it is illegal (30_encoding.md R88, R89). -/
def decode (c : Word) : Except Illegal Instr := decodeFields (cmdFields c)

/-- The encoder: each command's word as written in the table of 30_encoding.md R88. -/
def encode : Instr → Word
  | .bsWr32 => 0x00000001
  | .bsWr64 => 0x00000101
  | .bsRd32 => 0x00000002
  | .bsRd64 => 0x00000102
  | .bsPack32 => 0x00000003
  | .bsPack64 => 0x00000103
  | .bsUnpack32 => 0x00000004
  | .bsUnpack64 => 0x00000104
  | .ddEnc32 => 0x00000010
  | .ddEnc64 => 0x00000110
  | .ddDec32 => 0x00000011
  | .ddDec64 => 0x00000111
  | .fsSplit32 => 0x00000020
  | .fsSplit64 => 0x00000120
  | .fsRecomb32 => 0x00000021
  | .fsRecomb64 => 0x00000121
  | .ccSelect => 0x00000030
  | .ccExpand => 0x00000031

/-- The CMD value of a table row's bits: `nbits` bits of `w`, every higher bit of CMD 0
(30_encoding.md R85). -/
def tableWord (nbits w : Nat) : Word := BitVec.ofNat 64 (w % 2 ^ nbits)

/-- What the decoder reads from a table row's bits. -/
def decodeTableWord (nbits w : Nat) : Option Instr :=
  match decode (tableWord nbits w) with
  | .ok i => some i
  | .error _ => none

end Sys2Proof
end

