-- ==== Sys2Proof/Machine/State.lean ====
section
/-!
DEFINITION. The state of BSCORE as plain data: the register block (10_state.md R20 to R30), the hidden
engine state (R38), the data memory (20_memory.md R60), the pending moves of the other agents, and
`State.reset` (10_state.md R39, 70_reset_and_hazards.md R201).
-/

namespace Sys2Proof.Machine

/-- Data memory: (address, byte) pairs in one canonical form, addresses strictly rising and no entry
equal to what an unlisted address reads as (entry 2). -/
abbrev Memory := List Host.Cell

/-- The five error kinds (60_exceptions.md R180). -/
inductive ErrKind where
  | invalidArgument
  | corruptData
  | compressorFailure
  | illegalCommand
  | busError
deriving DecidableEq, Repr

/-- The errors a command can end with, one constructor per row of the sub-code table of
60_exceptions.md R181. The bus errors carry the refused address (R184), the compressor failures the
tag k. -/
inductive Cause where
  | reservedBits
  | badOpcode
  | width
  | count
  | misaligned
  | lenMultiple
  | range
  | overlap
  | offset
  | capacity
  | negBitwidth
  | bitwidthRange
  | hdrCount
  | lenMismatch
  | fieldRange
  | badTag
  | compressFail (k : Nat)
  | decompressFail (k : Nat)
  | nondeterministic (k : Nat)
  | busRead (addr : Word)
  | busWrite (addr : Word)
deriving DecidableEq, Repr

/-- The four phases of a command (30_encoding.md R93). -/
inductive Phase where
  | validate
  | read
  | write
  | commit
deriving DecidableEq, Repr

/-- The engine mode (10_state.md R38): IDLE, or RUNNING(c, phase) with c the accepted command word. -/
inductive Mode where
  | idle
  | running (c : Word) (phase : Phase)
deriving DecidableEq, Repr

/-- The states of the selector FSM (43_channel_compressor.md R162). -/
inductive FsmState where
  | idle
  | check
  | size
  | pick
  | emit
  | copy
  | commit
  | error
deriving DecidableEq, Repr

/-- The two operations of the compressor port (43_channel_compressor.md R162, R166): COMPRESS for
CC.SELECT, DECOMPRESS for CC.EXPAND. -/
inductive PortOp where
  | compress
  | decompress
deriving DecidableEq, Repr

/-- A request (op, k, X) on the compressor port (43_channel_compressor.md R166). -/
structure Request where
  op : PortOp
  k : Nat
  input : List Byte
deriving DecidableEq, Repr

/-- How the compressor service treats one request (entry 9): it answers by its function, answers
something else (a violation of the determinism that 43_channel_compressor.md R166 assumes), or
withholds its answer (the latency, or the answer that never comes, of R166). -/
inductive Answer where
  | byFunction
  | gives (r : Response)
  | withholds
deriving DecidableEq, Repr

/-- Bytes to be stored from an address upward. -/
structure Piece where
  addr : Nat
  bytes : List Byte
deriving DecidableEq, Repr

/-- The result registers a command's COMMIT phase names (30_encoding.md R94; 10_state.md R21, column
"engine writes"); `none` is a register the command does not write. -/
structure Commit where
  result : Option Word := none
  minReg : Option Word := none
  bitWidth : Option Word := none
  algo : Option Word := none
  outLen : Option Word := none
deriving DecidableEq, Repr

/-- The loop variables of the pseudocode that 10_state.md R38 lists: the cursors i and o, the XOR chain
state and the min/max accumulators (entry 15). -/
structure Loop where
  i : Nat := 0
  o : Nat := 0
  prevExp : Nat := 0
  prevSig : Nat := 0
  accMin : Int := 0
  accMax : Int := 0
deriving DecidableEq, Repr

/-- What the READ phase has prepared: the bytes WRITE will store, the registers COMMIT will write, and
the final loop variables. -/
structure Job where
  out : List Piece := []
  commit : Commit := {}
  loop : Loop := {}
deriving DecidableEq, Repr

/-- The hidden engine state (10_state.md R38). -/
structure Engine where
  mode : Mode
  /-- cursors, XOR chain state, min/max accumulators -/
  loop : Loop
  /-- the selector FSM's state and its registers k, best_k, best_len (`none` is infinity) -/
  fsm : FsmState
  k : Nat
  bestK : Nat
  bestLen : Option Nat
  /-- the error that the FSM state ERROR completes with -/
  cause : Option Cause
  /-- the input bytes that READ has read for the compressor requests; `none`: not read yet
  (43_channel_compressor.md R162, R163; entry 23) -/
  input : Option (List Byte)
  /-- an outstanding compressor request -/
  request : Option Request
  /-- what READ has prepared for WRITE and COMMIT -/
  job : Job
  /-- the output extent, known once WRITE is entered (60_exceptions.md R183) -/
  extent : List Buf
  /-- MODEL: another agent touched a named buffer during the command (20_memory.md R74; entry 7) -/
  raced : Bool
deriving DecidableEq, Repr

/-- The engine at rest, after a reset or a completion: IDLE with all hidden state discarded (10_state.md
R38, R39; 43_channel_compressor.md R162). What the discarded fields hold is the model's DESIGN CHOICE
(entry 26): the spec says only that they are discarded. The cursors, the XOR chain state, the
accumulators, k and best_k hold 0, and best_len holds infinity. -/
def Engine.idle : Engine :=
  { mode := .idle, loop := {}, fsm := .idle, k := 0, bestK := 0, bestLen := none, cause := none,
    input := none, request := none, job := {}, extent := [], raced := false }

/-- One pending move of an agent other than the engine, or one move granted to the engine (entry 3;
00_scope.md R5, 70_reset_and_hazards.md R213). -/
inductive Input where
  /-- the host reads `size` bytes at a host address (10_state.md R31) -/
  | regRead (addr : Nat) (size : Nat)
  /-- the host writes `size` bytes at a host address (10_state.md R31) -/
  | regWrite (addr : Nat) (size : Nat) (value : Word)
  /-- the engine makes one move: a phase, or a transition of the selector FSM -/
  | engine
  /-- the compressor service answers the request that was sent after the n-th reset, n being
  `State.resets` when it was sent (entry 27) -/
  | answer (n : Nat) (a : Answer)
  /-- the host or another bus agent reads data memory -/
  | memRead (addr : Nat) (len : Nat)
  /-- the host or another bus agent writes data memory -/
  | memWrite (addr : Nat) (bytes : List Byte)
  /-- the platform asserts the power-on reset (70_reset_and_hazards.md R200) -/
  | powerOn
deriving DecidableEq, Repr

/-- The answer an agent last received: to a register access (10_state.md R31) or to a data-memory
access. -/
inductive Reply where
  | none
  | accepted
  | data (v : Word)
  | busError
  | bytes (bs : List Byte)
deriving DecidableEq, Repr

/-- The machine. STATUS.BUSY is not stored: it is 1 exactly when `engine.mode` is RUNNING
(10_state.md R38). ID and CAP are hard-wired and not stored (R22, R23). -/
structure State where
  /-- the build and platform parameters (00_scope.md R6); no step changes them -/
  cfg : Params
  /-- CTRL.IE (10_state.md R24) -/
  ie : Bool
  /-- CMD (R25) -/
  cmd : Word
  /-- STATUS.DONE (R26) -/
  done : Bool
  /-- STATUS.OVERRUN (R26) -/
  overrun : Bool
  /-- STATUS.ERR (R26) -/
  err : BitVec 8
  /-- STATUS.ERR_SUB (R26) -/
  errSub : BitVec 16
  /-- ERR_ADDR (R27) -/
  errAddr : Word
  srcAddr : Word
  srcLen : Word
  dstAddr : Word
  dstCap : Word
  ch0Addr : Word
  ch1Addr : Word
  ch2Addr : Word
  count : Word
  bitOffset : Word
  fieldWidth : Word
  value : Word
  /-- RESULT (R30) -/
  result : Word
  /-- MIN (R28) -/
  minReg : Word
  /-- BITWIDTH (R28) -/
  bitWidth : Word
  /-- ALGO (R28) -/
  algo : Word
  /-- OUT_LEN (R30) -/
  outLen : Word
  /-- hidden engine state (R38) -/
  engine : Engine
  /-- data memory (20_memory.md R60) -/
  mem : Memory
  /-- MODEL: how the compressor service treats its next requests; empty: by its functions (entry 9) -/
  service : List Answer
  /-- MODEL: the pending moves of the environment, oldest first (entry 3) -/
  inputs : List Input
  /-- MODEL: the last answer given to the host or another agent (entry 12) -/
  reply : Reply
  /-- MODEL: the index of the next free values (entries 5 to 7) -/
  fresh : Nat
  /-- MODEL: how many resets there have been: it tells a request that a reset has abandoned from a later one
  (70_reset_and_hazards.md R201; entry 27) -/
  resets : Nat
deriving DecidableEq, Repr

/-- The machine right after power-on reset (10_state.md R39; the memory and the model's own fields:
entries 1, 2, 3). -/
def State.reset : State :=
  { cfg := Params.default
    ie := false
    cmd := 0
    done := false
    overrun := false
    err := 0
    errSub := 0
    errAddr := 0
    srcAddr := 0
    srcLen := 0
    dstAddr := 0
    dstCap := 0
    ch0Addr := 0
    ch1Addr := 0
    ch2Addr := 0
    count := 0
    bitOffset := 0
    fieldWidth := 0
    value := 0
    result := 0
    minReg := 0
    bitWidth := 0
    algo := 0
    outLen := 0
    engine := Engine.idle
    mem := []
    service := []
    inputs := []
    reply := .none
    fresh := 0
    resets := 0 }

/-- Why a step stops with a fault. No command of BSCORE faults: its errors are completions recorded in
STATUS (60_exceptions.md R186). -/
inductive Fault where
  /-- Raised by a step that performs another agent's access to data memory outside
  [0, 2^ADDR_BITS) (20_memory.md R60: no such address exists). Safe: the machine stops (entry 10). -/
  | noSuchAddress
deriving DecidableEq, Repr

/-- Why a step is refused. -/
inductive Refusal where
  /-- Raised by an arm of `exec` for a command that has no meaning yet. Safe: the machine stops. No arm
  is left in that case. -/
  | notModelled (mnemonic : String)
deriving DecidableEq, Repr

/-- The outcome of a step of this machine. -/
abbrev Outcome := Host.Outcome State Fault Refusal

end Sys2Proof.Machine
end

