-- ==== Sys2Proof/Machine/Flags.lean ====
section
/-!
DEFINITION. The flags of BSCORE: the STATUS and CTRL words, BUSY, the interrupt output and the codes of
the error record (10_state.md R24, R26, R35; 60_exceptions.md R180, R181, R185), and the two constant
registers (R22, R23).
-/

namespace Sys2Proof.Machine

/-- STATUS.BUSY = 1 exactly when the mode is RUNNING (10_state.md R38). -/
def State.busy (s : State) : Bool :=
  match s.engine.mode with
  | .idle => false
  | .running _ _ => true

/-- STATUS as a read returns it (10_state.md R26). -/
def statusWord (s : State) : Word :=
  0#32 ++ s.errSub ++ s.err ++ 0#5 ++ BitVec.ofBool s.overrun ++ BitVec.ofBool s.done ++
    BitVec.ofBool s.busy

/-- CTRL as a read returns it: IE in bit 0, SRST and the reserved bits 0 (10_state.md R24). -/
def ctrlWord (s : State) : Word := 0#63 ++ BitVec.ofBool s.ie

/-- IRQ = CTRL.IE ∧ STATUS.DONE (60_exceptions.md R185). -/
def State.irq (s : State) : Bool := s.ie && s.done

/-- ID (10_state.md R22). -/
def idWord : Word := 0x0000000042530007

/-- CAP (10_state.md R23): N_ALGO in [7:0], W32 in [8], W64 in [9], ADDR_BITS in [23:16]. -/
def capWord (p : Params) : Word :=
  0#40 ++ BitVec.ofNat 8 p.addrBits ++ 0#6 ++ 1#1 ++ 1#1 ++ BitVec.ofNat 8 p.nAlgo

/-- The kind of an error (60_exceptions.md R181). -/
def Cause.kind : Cause → ErrKind
  | .reservedBits => .illegalCommand
  | .badOpcode => .illegalCommand
  | .width => .invalidArgument
  | .count => .invalidArgument
  | .misaligned => .invalidArgument
  | .lenMultiple => .invalidArgument
  | .range => .invalidArgument
  | .overlap => .invalidArgument
  | .offset => .invalidArgument
  | .capacity => .invalidArgument
  | .negBitwidth => .corruptData
  | .bitwidthRange => .corruptData
  | .hdrCount => .corruptData
  | .lenMismatch => .corruptData
  | .fieldRange => .corruptData
  | .badTag => .corruptData
  | .compressFail _ => .compressorFailure
  | .decompressFail _ => .compressorFailure
  | .nondeterministic _ => .compressorFailure
  | .busRead _ => .busError
  | .busWrite _ => .busError

/-- STATUS.ERR's code of a kind (60_exceptions.md R180). -/
def ErrKind.code : ErrKind → BitVec 8
  | .invalidArgument => 1
  | .corruptData => 2
  | .compressorFailure => 3
  | .illegalCommand => 4
  | .busError => 5

/-- base + k, for a tag 1 ≤ k ≤ 255 (60_exceptions.md R181; entry 14). -/
def subWithTag (base : BitVec 8) (k : Nat) : BitVec 16 := base ++ BitVec.ofNat 8 k

/-- STATUS.ERR_SUB's sub-code of an error (60_exceptions.md R181). -/
def Cause.sub : Cause → BitVec 16
  | .reservedBits => 0x0001
  | .badOpcode => 0x0002
  | .width => 0x0010
  | .count => 0x0011
  | .misaligned => 0x0012
  | .lenMultiple => 0x0013
  | .range => 0x0014
  | .overlap => 0x0015
  | .offset => 0x0016
  | .capacity => 0x0017
  | .negBitwidth => 0x0020
  | .bitwidthRange => 0x0021
  | .hdrCount => 0x0022
  | .lenMismatch => 0x0023
  | .fieldRange => 0x0024
  | .badTag => 0x0025
  | .compressFail k => subWithTag 0x01 k
  | .decompressFail k => subWithTag 0x02 k
  | .nondeterministic k => subWithTag 0x03 k
  | .busRead _ => 0x0040
  | .busWrite _ => 0x0041

/-- The address a BusError records (60_exceptions.md R184); the other errors record none. -/
def Cause.address : Cause → Option Word
  | .busRead a => some a
  | .busWrite a => some a
  | _ => none

/-- The error of an illegal command word (30_encoding.md R89). -/
def illegalCause : Illegal → Cause
  | .reservedBits => .reservedBits
  | .badOpcode => .badOpcode

end Sys2Proof.Machine
end

