-- ==== Sys2Proof/Machine/Memory.lean ====
section
/-!
DEFINITION. Data memory (20_memory.md R60, R61): reading and writing bytes and little-endian words over
the canonical list of cells.
-/

namespace Sys2Proof.Machine

/-- What an address that the memory does not list reads as (entry 2, DESIGN CHOICE). -/
def unlistedByte : Byte := 0

/-- The byte at an address. -/
def readByte : Memory → Nat → Byte
  | [], _ => unlistedByte
  | (x, b) :: rest, a => if x = a then b else readByte rest a

/-- Store one byte, keeping the canonical form. -/
def writeByte : Memory → Nat → Byte → Memory
  | [], a, b => if b = unlistedByte then [] else [(a, b)]
  | (x, c) :: rest, a, b =>
    if a < x then
      if b = unlistedByte then (x, c) :: rest else (a, b) :: (x, c) :: rest
    else if a = x then
      if b = unlistedByte then rest else (a, b) :: rest
    else (x, c) :: writeByte rest a b

/-- The canonical form: addresses strictly rising, no entry equal to the unlisted byte. -/
def Memory.wf : Memory → Bool
  | [] => true
  | (x, b) :: rest =>
    decide (b ≠ unlistedByte) && rest.all (fun c => decide (x < c.1)) && Memory.wf rest

/-- The bytes at addr .. addr+n-1. -/
def readBytes (m : Memory) (addr : Nat) : Nat → List Byte
  | 0 => []
  | n + 1 => readByte m addr :: readBytes m (addr + 1) n

/-- Store bytes from addr upward. -/
def writeBytes (m : Memory) (addr : Nat) : List Byte → Memory
  | [] => m
  | b :: bs => writeBytes (writeByte m addr b) (addr + 1) bs

/-- The value of a little-endian byte string (20_memory.md R61): Σ byte[i]·2^(8i). -/
def leValue : List Byte → Nat
  | [] => 0
  | b :: bs => b.toNat + 256 * leValue bs

/-- The n bytes of the little-endian encoding of v (00_scope.md R9, MemWrite). -/
def leBytes : Nat → Nat → List Byte
  | 0, _ => []
  | n + 1, v => BitVec.ofNat 8 v :: leBytes n (v / 256)

/-- MemRead(addr, n) of 00_scope.md R9. -/
def memRead (m : Memory) (addr n : Nat) : Nat := leValue (readBytes m addr n)

/-- The n consecutive words of B bytes from addr upward: the elements of an array (00_scope.md R11). -/
def readWords (m : Memory) (B : Nat) (addr : Nat) : Nat → List Nat
  | 0 => []
  | n + 1 => memRead m addr B :: readWords m B (addr + B) n

/-- The bytes of consecutive words of B bytes. -/
def wordsBytes (B : Nat) : List Nat → List Byte
  | [] => []
  | v :: vs => leBytes B v ++ wordsBytes B vs

/-- Store pieces in order. -/
def storePieces (m : Memory) : List Piece → Memory
  | [] => m
  | p :: ps => storePieces (writeBytes m p.addr p.bytes) ps

/-- Give every byte of a buffer a free value (60_exceptions.md R183 (b)). -/
def scribbleFrom (free : Nat → Byte) (m : Memory) (addr : Nat) : Nat → Memory
  | 0 => m
  | n + 1 => scribbleFrom free (writeByte m addr (free addr)) (addr + 1) n

/-- Give every byte of an extent a free value. -/
def scribble (free : Nat → Byte) (m : Memory) : List Buf → Memory
  | [] => m
  | b :: bs => scribble free (scribbleFrom free m b.addr b.len) bs

end Sys2Proof.Machine
end

