-- ==== Sys2Proof/Machine/Operands.lean ====
section
/-!
DEFINITION. The quantities a command derives from its width and its operand registers: widths
(00_scope.md R10), number readings (R7, R8; 30_encoding.md R86), buffers and their tests (20_memory.md
R63 to R67), and bit fields of a BitBuffer (40_bitstream.md R110).
-/

namespace Sys2Proof.Machine

/-! ### Quantities of a width (00_scope.md R10) -/

/-- W -/
def wBits : Width → Nat
  | .w32 => 32
  | .w64 => 64

/-- B = W/8 -/
def wBytes : Width → Nat
  | .w32 => 4
  | .w64 => 8

/-- E, the exponent width -/
def expBits : Width → Nat
  | .w32 => 8
  | .w64 => 11

/-- M, the significand width -/
def sigBits : Width → Nat
  | .w32 => 23
  | .w64 => 52

/-- COUNT_MAX (00_scope.md R6) -/
def countMax : Nat := 2 ^ 31 - 1

/-! ### Numbers (00_scope.md R7, R8) -/

/-- mask(w) = 2^w − 1, applied to a value. -/
def maskTo (w v : Nat) : Nat := v % 2 ^ w

/-- ceil_div(a, b), for b > 0. -/
def ceilDiv (a b : Nat) : Nat := (a + (b - 1)) / b

/-- bitsNeeded(r): 0 when r = 0, else the least n with r < 2^n. -/
def bitsNeeded (r : Nat) : Nat := if r = 0 then 0 else Nat.log2 r + 1

/-- signed_W(v), the two's-complement reading of a W-bit value. -/
def signedOf (W v : Nat) : Int := if v < 2 ^ (W - 1) then (v : Int) else (v : Int) - 2 ^ W

/-- P(count, w) = ceil_div(count·w, W)·B, the packed size in bytes (00_scope.md R10). -/
def packedSize (w : Width) (count fw : Nat) : Nat := ceilDiv (count * fw) (wBits w) * wBytes w

/-- VALUE or MIN as a command of width W reads it: its low W bits (30_encoding.md R86). -/
def lowBits (w : Width) (r : Word) : Nat := maskTo (wBits w) r.toNat

/-- An integer modulo 2^64, as MIN is written (41_delta_codec.md R132). -/
def wordOfInt (i : Int) : Word := BitVec.ofInt 64 i

/-! ### Buffers (20_memory.md R63 to R67) -/

/-- In space: addr + len ≤ 2^ADDR_BITS on integers (R65). -/
def inSpace (p : Params) (b : Buf) : Bool := decide (b.addr + b.len ≤ 2 ^ p.addrBits)

/-- Disjoint buffers (R67). -/
def disjoint (a b : Buf) : Bool :=
  decide (a.len = 0) || decide (b.len = 0) || decide (a.addr + a.len ≤ b.addr) ||
    decide (b.addr + b.len ≤ a.addr)

/-- The byte at an address belongs to the buffer. -/
def hasByte (b : Buf) (a : Nat) : Bool := decide (b.addr ≤ a) && decide (a < b.addr + b.len)

/-- Mapped(a) (R66). -/
def mapped (p : Params) (a : Nat) : Bool := !p.refused.any (fun b => hasByte b a)

/-- The refused bytes among those of some buffers (R66). -/
def refusedIn (p : Params) (bufs : List Buf) : List Nat :=
  (bufs.flatMap (fun b => List.range' b.addr b.len)).filter (fun a => !mapped p a)

/-- (SRC_ADDR, SRC_LEN) -/
def srcBuf (s : State) : Buf := ⟨s.srcAddr.toNat, s.srcLen.toNat⟩

/-- (DST_ADDR, DST_CAP): a destination's declared extent is its capacity (R67). -/
def dstBuf (s : State) : Buf := ⟨s.dstAddr.toNat, s.dstCap.toNat⟩

/-- (SRC_ADDR, COUNT·B): an array of COUNT elements. -/
def srcArray (w : Width) (s : State) : Buf := ⟨s.srcAddr.toNat, s.count.toNat * wBytes w⟩

/-- (CH0_ADDR, COUNT·B) -/
def ch0Array (w : Width) (s : State) : Buf := ⟨s.ch0Addr.toNat, s.count.toNat * wBytes w⟩

/-- (CH1_ADDR, COUNT·B) -/
def ch1Array (w : Width) (s : State) : Buf := ⟨s.ch1Addr.toNat, s.count.toNat * wBytes w⟩

/-- (CH2_ADDR, COUNT·B) -/
def ch2Array (w : Width) (s : State) : Buf := ⟨s.ch2Addr.toNat, s.count.toNat * wBytes w⟩

/-- A test of a VALIDATE list: the condition under which it fails, and the error. -/
abbrev Check := Bool × Cause

/-- The first check that fails is the one reported (60_exceptions.md R182). -/
def firstFailure : List Check → Option Cause
  | [] => none
  | (bad, e) :: rest => if bad then some e else firstFailure rest

/-- FIELD_WIDTH = 0 or FIELD_WIDTH > W (40_bitstream.md R111 to R114). -/
def badFieldWidth (w : Width) (s : State) : Bool :=
  decide (s.fieldWidth.toNat = 0) || decide (wBits w < s.fieldWidth.toNat)

/-- COUNT = 0 or COUNT > COUNT_MAX. -/
def badCount (s : State) : Bool := decide (s.count.toNat = 0) || decide (countMax < s.count.toNat)

/-- An address or a length that is not a multiple of B (20_memory.md R63, R64). -/
def notMultiple (w : Width) (r : Word) : Bool := decide (r.toNat % wBytes w ≠ 0)

/-- A buffer that is not in space (20_memory.md R65). -/
def outOfSpace (s : State) (b : Buf) : Bool := !inSpace s.cfg b

/-! ### Bit fields of a BitBuffer (40_bitstream.md R110) -/

/-- wi = o >> L2W, the word index. -/
def wordIndex (w : Width) (o : Nat) : Nat := o / wBits w

/-- bi = o & (W−1), the bit in that word. -/
def bitIndex (w : Width) (o : Nat) : Nat := o % wBits w

/-- span = (W − bi < w): the field reaches into the next word. -/
def spans (w : Width) (o fw : Nat) : Bool := decide (wBits w - bitIndex w o < fw)

/-- The part of a field's value that goes into its first word: (v << bi) mod 2^W. -/
def lowPart (w : Width) (o v : Nat) : Nat := maskTo (wBits w) (v <<< bitIndex w o)

/-- The part that goes into the next word: v >> (W − bi). -/
def highPart (w : Width) (o v : Nat) : Nat := v >>> (wBits w - bitIndex w o)

/-- The field of width fw at bit offset o, from its two words (the second is ignored unless the field
spans): 40_bitstream.md R112, R114. -/
def extractField (w : Width) (fw o x0 x1 : Nat) : Nat :=
  let r := x0 >>> bitIndex w o
  maskTo fw (if spans w o fw then r ||| maskTo (wBits w) (x1 <<< (wBits w - bitIndex w o)) else r)

/-- OR the value v of a field of width fw at bit offset o into a word image (R113). -/
def orField (w : Width) (fw : Nat) (out : List Nat) (o v : Nat) : List Nat :=
  let out1 := out.modify (wordIndex w o) (fun x => x ||| lowPart w o v)
  if spans w o fw then out1.modify (wordIndex w o + 1) (fun x => x ||| highPart w o v) else out1

/-- OR the values, in order, into contiguous fields from element index i on (R113, 41_delta_codec.md
R132). -/
def orFields (w : Width) (fw : Nat) : List Nat → Nat → List Nat → List Nat
  | out, _, [] => out
  | out, i, v :: vs => orFields w fw (orField w fw out (i * fw) v) (i + 1) vs

/-- The packed word image of some field values: P(n, fw)/B zeroed words with the fields ORed in. -/
def packWords (w : Width) (fw : Nat) (vs : List Nat) : List Nat :=
  orFields w fw (List.replicate (packedSize w vs.length fw / wBytes w) 0) 0 vs

/-- Field i of a packed word list: the field of width fw at offset i·fw (R114, 41_delta_codec.md
R133). A word the list does not hold is never looked at when the list has P(n, fw) bytes. -/
def fieldAt (w : Width) (fw : Nat) (xs : List Nat) (i : Nat) : Nat :=
  extractField w fw (i * fw) (xs.getD (wordIndex w (i * fw)) 0) (xs.getD (wordIndex w (i * fw) + 1) 0)

/-- The first n fields. -/
def unpackFields (w : Width) (fw : Nat) (xs : List Nat) (n : Nat) : List Nat :=
  (List.range n).map (fieldAt w fw xs)

end Sys2Proof.Machine
end

