-- ==== Sys2Proof/Machine/Ops.lean ====
section
/-!
DEFINITION. The operations every command shares: acceptance (30_encoding.md R92), completion with an
error (R94, 60_exceptions.md R186: BSCORE's taking of an exception), completion with success (R94), the
acknowledgement (60_exceptions.md R187: BSCORE's return from one), reset (70_reset_and_hazards.md R201,
R202), and the four phases of a command (30_encoding.md R93), once as one atomic change (R96) and once
phase by phase.
-/

namespace Sys2Proof.Machine

/-! ### Taking an error, and the return from it -/

/-- Completion with an error (30_encoding.md R94; 60_exceptions.md R180, R184, R186): the kind, the
sub-code and, for BusError, the address are recorded, DONE is set, the engine becomes IDLE. Nothing else
is saved and no control moves. An error uses up one index of free values. -/
def State.fail (e : Cause) (s : State) : State :=
  { s with
    err := e.kind.code
    errSub := e.sub
    errAddr := e.address.getD s.errAddr
    done := true
    engine := Engine.idle
    fresh := s.fresh + 1 }

/-- The host's acknowledgement, a STATUS write (60_exceptions.md R187; 10_state.md R26): DONE is cleared
by bit 1, OVERRUN by bit 2; ERR and ERR_SUB stay. -/
def acknowledge (v : Word) (s : State) : State :=
  { s with done := s.done && !v.getLsbD 1, overrun := s.overrun && !v.getLsbD 2 }

/-! ### Acceptance and success -/

/-- The FSM state on acceptance (43_channel_compressor.md R162, first row): CHECK for CC.SELECT and
CC.EXPAND, otherwise the FSM stays IDLE. -/
def fsmOnAccept (c : Word) : FsmState :=
  match decode c with
  | .ok .ccSelect => .check
  | .ok .ccExpand => .check
  | _ => .idle

/-- Acceptance of a CMD write while BUSY = 0 (30_encoding.md R92). OVERRUN is left as it is. -/
def accept (c : Word) (s : State) : State :=
  { s with
    cmd := c
    done := false
    err := 0
    errSub := 0
    errAddr := 0
    engine := { Engine.idle with mode := .running c .validate, fsm := fsmOnAccept c } }

/-- Completion with success (30_encoding.md R94): the result registers COMMIT names, ERR ← 0, DONE ← 1,
engine IDLE. -/
def State.succeed (c : Commit) (s : State) : State :=
  { s with
    result := c.result.getD s.result
    minReg := c.minReg.getD s.minReg
    bitWidth := c.bitWidth.getD s.bitWidth
    algo := c.algo.getD s.algo
    outLen := c.outLen.getD s.outLen
    err := 0
    done := true
    engine := Engine.idle }

/-! ### Refused bytes and open bytes -/

/-- One of the refused addresses (60_exceptions.md R184): the only one, or a free choice among several
(entry 6). -/
def chooseRefused (n : Nat) : List Nat → Nat
  | [] => 0
  | [a] => a
  | a :: b :: rest => (a :: b :: rest).getD (Config.freeChoice n % (rest.length + 2)) a

/-- The error BusError(BUS_READ, addr) for some refused bytes. -/
def busReadCause (s : State) (bad : List Nat) : Cause :=
  .busRead (BitVec.ofNat 64 (chooseRefused s.fresh bad))

/-- The error BusError(BUS_WRITE, addr) for some refused bytes. -/
def busWriteCause (s : State) (bad : List Nat) : Cause :=
  .busWrite (BitVec.ofNat 64 (chooseRefused s.fresh bad))

/-- Every byte of an extent takes a free value (60_exceptions.md R183 (b); entry 5). -/
def State.loseExtent (extent : List Buf) (s : State) : State :=
  { s with mem := scribble (Config.freeByte s.fresh) s.mem extent, fresh := s.fresh + 1 }

/-- Completion with an error raised after WRITE began: every byte of the output extent holds any value at
the completion, whatever was written there before it (60_exceptions.md R183 (b); 20_memory.md R74). -/
def State.failLosing (extent : List Buf) (e : Cause) (s : State) : State := (s.loseExtent extent).fail e

/-- The output extent of prepared pieces (60_exceptions.md R183). -/
def extentOf (out : List Piece) : List Buf := out.map (fun p => ⟨p.addr, p.bytes.length⟩)

/-! ### Races (20_memory.md R74) -/

/-- Two buffers share a byte. -/
def meets (a b : Buf) : Bool := !disjoint a b

/-- The command's outcome is open: another agent touched a named buffer (20_memory.md R74, entry 7), or
a named buffer lies in a region with side effects (R70, 93_implementation_defined.md X12, entry 8). -/
def isRaced (named : List Buf) (s : State) : Bool :=
  s.engine.raced || named.any (fun b => s.cfg.sideEffect.any (fun r => meets b r))

/-- Free values for the result registers a command would write (20_memory.md R74). -/
def Commit.freed (n : Nat) (c : Commit) : Commit :=
  { result := c.result.map (fun _ => Config.freeWord n 0x88)
    minReg := c.minReg.map (fun _ => Config.freeWord n 0x90)
    bitWidth := c.bitWidth.map (fun _ => Config.freeWord n 0x98)
    algo := c.algo.map (fun _ => Config.freeWord n 0xA0)
    outLen := c.outLen.map (fun _ => Config.freeWord n 0xA8) }

/-- COMMIT and completion of a command whose bytes are stored. Under a race the stored bytes and the
result registers take free values (20_memory.md R74). -/
def conclude (named extent : List Buf) (c : Commit) (s : State) : State :=
  if isRaced named s then (s.loseExtent extent).succeed (c.freed s.fresh) else s.succeed c

/-! ### Commands in four phases (30_encoding.md R93) -/

/-- A running engine enters another phase of the same command (10_state.md R38). -/
def Mode.atPhase (ph : Phase) : Mode → Mode
  | .idle => .idle
  | .running c _ => .running c ph

/-- The rule of a BitStream, delta or splitter command, as its section states it: the VALIDATE checks in
order, the bytes READ touches, what READ makes of them (with the checks that depend on data), the
buffers the command names (70_reset_and_hazards.md R206) and, of these, its outputs. -/
structure Rule where
  checks : State → List Check
  reads : State → List Buf
  plan : State → Except Cause Job
  named : State → List Buf
  outputs : State → List Buf

/-- READ: a refused byte is BusError(BUS_READ) (60_exceptions.md R184); otherwise the rule's plan. -/
def readPhase (r : Rule) (s : State) : Except Cause Job :=
  match refusedIn s.cfg (r.reads s) with
  | [] => r.plan s
  | a :: bad => .error (busReadCause s (a :: bad))

/-- WRITE met a refused byte: BusError(BUS_WRITE), and the whole extent holds any value
(60_exceptions.md R183 (b), R184). -/
def failWrite (extent : List Buf) (s : State) : State :=
  s.failLosing extent (busWriteCause s (refusedIn s.cfg extent))

/-- A command from VALIDATE through completion as one atomic change (30_encoding.md R96). -/
def runRule (r : Rule) (s : State) : State :=
  match firstFailure (r.checks s) with
  | some e => s.fail e
  | none =>
    match readPhase r s with
    | .error e => s.fail e
    | .ok job =>
      match refusedIn s.cfg (extentOf job.out) with
      | [] =>
        conclude (r.named s) (extentOf job.out) job.commit
          { s with mem := storePieces s.mem job.out }
      | _ :: _ => failWrite (extentOf job.out) s

/-- One phase of a command (30_encoding.md R93). -/
def ruleMove (r : Rule) (ph : Phase) (s : State) : State :=
  match ph with
  | .validate =>
    match firstFailure (r.checks s) with
    | some e => s.fail e
    | none => { s with engine := { s.engine with mode := s.engine.mode.atPhase .read } }
  | .read =>
    match readPhase r s with
    | .error e => s.fail e
    | .ok job =>
      { s with
        engine :=
          { s.engine with
            mode := s.engine.mode.atPhase .write
            loop := job.loop
            job := job
            extent := extentOf job.out } }
  | .write =>
    match refusedIn s.cfg s.engine.extent with
    | [] =>
      { s with
        mem := storePieces s.mem s.engine.job.out
        engine := { s.engine with mode := s.engine.mode.atPhase .commit } }
    | _ :: _ => failWrite s.engine.extent s
  | .commit => conclude (r.named s) s.engine.extent s.engine.job.commit s

/-! ### Reset (70_reset_and_hazards.md R200 to R202) -/

/-- Data memory and the free-value index after a reset: untouched, but for a command that had entered
WRITE, whose output extent holds any value (R202). -/
def abortCommand (s : State) : State :=
  match s.engine.mode with
  | .running _ .write => s.loseExtent s.engine.extent
  | .running _ .commit => s.loseExtent s.engine.extent
  | .running _ .validate => s
  | .running _ .read => s
  | .idle => s

/-- A reset, power-on or soft (R201): every register at its reset value, the engine IDLE with its hidden
state discarded, an outstanding request among it. The parameters, the data memory, the compressor service
and the environment's pending moves are not BSCORE's and stay. The reset is counted (entry 27). -/
def resetMachine (s : State) : State :=
  { State.reset with
    cfg := s.cfg
    mem := (abortCommand s).mem
    fresh := (abortCommand s).fresh
    service := s.service
    inputs := s.inputs
    reply := s.reply
    resets := s.resets + 1 }

end Sys2Proof.Machine
end

