-- ==== Sys2Proof/Machine/BitStream.lean ====
section
/-!
DEFINITION. The BitStream unit: BS.WR, BS.RD, BS.PACK, BS.UNPACK (40_bitstream.md R110 to R114).
-/

namespace Sys2Proof.Machine

/-- The one or two words of a BitBuffer at `base` that a field touches (R110; 20_memory.md R79). -/
def fieldWords (w : Width) (base o fw : Nat) : List Buf :=
  let a0 := base + wordIndex w o * wBytes w
  if spans w o fw then [⟨a0, wBytes w⟩, ⟨a0 + wBytes w, wBytes w⟩] else [⟨a0, wBytes w⟩]

/-- BIT_OFFSET + FIELD_WIDTH > 8·len, on integers (R111, R112, check 5). -/
def badOffset (s : State) (len : Word) : Bool :=
  decide (8 * len.toNat < s.bitOffset.toNat + s.fieldWidth.toNat)

/-! ### BS.WR (R111) -/

/-- R111, checks 1 to 5. -/
def bsWrChecks (w : Width) (s : State) : List Check :=
  [ (badFieldWidth w s, .width),
    (notMultiple w s.dstAddr, .misaligned),
    (notMultiple w s.dstCap, .lenMultiple),
    (outOfSpace s (dstBuf s), .range),
    (badOffset s s.dstCap, .offset) ]

/-- The field value: VALUE[W−1:0] & mask(FIELD_WIDTH). -/
def bsWrField (w : Width) (s : State) : Nat := maskTo s.fieldWidth.toNat (lowBits w s.value)

/-- The words of R111's pseudocode, old contents ORed with the field's parts. -/
def bsWrPlan (w : Width) (s : State) : Except Cause Job :=
  let o := s.bitOffset.toNat
  let fw := s.fieldWidth.toNat
  let v := bsWrField w s
  let a0 := s.dstAddr.toNat + wordIndex w o * wBytes w
  let a1 := a0 + wBytes w
  let p0 : Piece := ⟨a0, leBytes (wBytes w) (memRead s.mem a0 (wBytes w) ||| lowPart w o v)⟩
  let p1 : Piece := ⟨a1, leBytes (wBytes w) (memRead s.mem a1 (wBytes w) ||| highPart w o v)⟩
  .ok { out := if spans w o fw then [p0, p1] else [p0], loop := { o := o } }

/-- BS.WR (R111). -/
def bsWrRule (w : Width) : Rule :=
  { checks := bsWrChecks w
    reads := fun s => fieldWords w s.dstAddr.toNat s.bitOffset.toNat s.fieldWidth.toNat
    plan := bsWrPlan w
    named := fun s => [dstBuf s]
    outputs := fun s => [dstBuf s] }

/-- BS.WR.32 (R111). -/
def execBsWr32 (s : State) : Outcome := .next (runRule (bsWrRule .w32) s)

/-- BS.WR.64 (R111). -/
def execBsWr64 (s : State) : Outcome := .next (runRule (bsWrRule .w64) s)

/-! ### BS.RD (R112) -/

/-- R112, checks 1 to 5. -/
def bsRdChecks (w : Width) (s : State) : List Check :=
  [ (badFieldWidth w s, .width),
    (notMultiple w s.srcAddr, .misaligned),
    (notMultiple w s.srcLen, .lenMultiple),
    (outOfSpace s (srcBuf s), .range),
    (badOffset s s.srcLen, .offset) ]

/-- The field R112's pseudocode reads. -/
def bsRdField (w : Width) (s : State) : Nat :=
  let o := s.bitOffset.toNat
  let a0 := s.srcAddr.toNat + wordIndex w o * wBytes w
  extractField w s.fieldWidth.toNat o (memRead s.mem a0 (wBytes w))
    (memRead s.mem (a0 + wBytes w) (wBytes w))

/-- RESULT ← zext_64(field) (R112). -/
def bsRdPlan (w : Width) (s : State) : Except Cause Job :=
  .ok { commit := { result := some (BitVec.ofNat 64 (bsRdField w s)) }
        loop := { o := s.bitOffset.toNat } }

/-- BS.RD (R112). -/
def bsRdRule (w : Width) : Rule :=
  { checks := bsRdChecks w
    reads := fun s => fieldWords w s.srcAddr.toNat s.bitOffset.toNat s.fieldWidth.toNat
    plan := bsRdPlan w
    named := fun s => [srcBuf s]
    outputs := fun _ => [] }

/-- BS.RD.32 (R112). -/
def execBsRd32 (s : State) : Outcome := .next (runRule (bsRdRule .w32) s)

/-- BS.RD.64 (R112). -/
def execBsRd64 (s : State) : Outcome := .next (runRule (bsRdRule .w64) s)

/-! ### BS.PACK (R113) -/

/-- R113, checks 1 to 8. -/
def bsPackChecks (w : Width) (s : State) : List Check :=
  [ (badFieldWidth w s, .width),
    (badCount s, .count),
    (notMultiple w s.srcAddr, .misaligned),
    (notMultiple w s.dstAddr, .misaligned),
    (outOfSpace s (srcArray w s), .range),
    (outOfSpace s (dstBuf s), .range),
    (!disjoint (srcArray w s) (dstBuf s), .overlap),
    (decide (s.dstCap.toNat < packedSize w s.count.toNat s.fieldWidth.toNat), .capacity) ]

/-- The elements of the source array. -/
def srcElements (w : Width) (s : State) : List Nat :=
  readWords s.mem (wBytes w) s.srcAddr.toNat s.count.toNat

/-- The packed words of R113 and OUT_LEN ← Pk. -/
def bsPackPlan (w : Width) (s : State) : Except Cause Job :=
  let n := s.count.toNat
  let fw := s.fieldWidth.toNat
  let out := packWords w fw ((srcElements w s).map (maskTo fw))
  .ok { out := [⟨s.dstAddr.toNat, wordsBytes (wBytes w) out⟩]
        commit := { outLen := some (BitVec.ofNat 64 (packedSize w n fw)) }
        loop := { i := n, o := n * fw } }

/-- BS.PACK (R113). -/
def bsPackRule (w : Width) : Rule :=
  { checks := bsPackChecks w
    reads := fun s => [srcArray w s]
    plan := bsPackPlan w
    named := fun s => [srcArray w s, dstBuf s]
    outputs := fun s => [dstBuf s] }

/-- BS.PACK.32 (R113). -/
def execBsPack32 (s : State) : Outcome := .next (runRule (bsPackRule .w32) s)

/-- BS.PACK.64 (R113). -/
def execBsPack64 (s : State) : Outcome := .next (runRule (bsPackRule .w64) s)

/-! ### BS.UNPACK (R114) -/

/-- R114, checks 1 to 9. -/
def bsUnpackChecks (w : Width) (s : State) : List Check :=
  [ (badFieldWidth w s, .width),
    (badCount s, .count),
    (notMultiple w s.srcAddr, .misaligned),
    (notMultiple w s.dstAddr, .misaligned),
    (outOfSpace s (srcBuf s), .range),
    (outOfSpace s (dstBuf s), .range),
    (!disjoint (srcBuf s) (dstBuf s), .overlap),
    (decide (s.srcLen.toNat ≠ packedSize w s.count.toNat s.fieldWidth.toNat), .lenMismatch),
    (decide (s.dstCap.toNat < s.count.toNat * wBytes w), .capacity) ]

/-- The SRC_LEN/B words of the packed source. -/
def packedWords (w : Width) (s : State) : List Nat :=
  readWords s.mem (wBytes w) s.srcAddr.toNat (s.srcLen.toNat / wBytes w)

/-- The job that stores n words at DST and sets OUT_LEN ← n·B. -/
def wordsJob (w : Width) (s : State) (words : List Nat) (loop : Loop) : Job :=
  { out := [⟨s.dstAddr.toNat, wordsBytes (wBytes w) words⟩]
    commit := { outLen := some (BitVec.ofNat 64 (s.count.toNat * wBytes w)) }
    loop := loop }

/-- The fields of R114, each zero-extended to a word. -/
def bsUnpackPlan (w : Width) (s : State) : Except Cause Job :=
  let n := s.count.toNat
  let fw := s.fieldWidth.toNat
  .ok (wordsJob w s (unpackFields w fw (packedWords w s) n) { i := n, o := n * fw })

/-- BS.UNPACK (R114). -/
def bsUnpackRule (w : Width) : Rule :=
  { checks := bsUnpackChecks w
    reads := fun s => [srcBuf s]
    plan := bsUnpackPlan w
    named := fun s => [srcBuf s, dstBuf s]
    outputs := fun s => [dstBuf s] }

/-- BS.UNPACK.32 (R114). -/
def execBsUnpack32 (s : State) : Outcome := .next (runRule (bsUnpackRule .w32) s)

/-- BS.UNPACK.64 (R114). -/
def execBsUnpack64 (s : State) : Outcome := .next (runRule (bsUnpackRule .w64) s)

end Sys2Proof.Machine
end

