-- ==== Sys2Proof/Machine/ChannelCompressor.lean ====
section
/-!
DEFINITION. The ChannelCompressor unit: the compressor port (43_channel_compressor.md R166), the selector
FSM (R162), CC.SELECT (R163) and CC.EXPAND (R164).
-/

namespace Sys2Proof.Machine

/-! ### The compressor port (R166) -/

/-- What the service's functions answer to a request. -/
def portFunction (q : Request) : Response :=
  match q.op with
  | .compress => Config.compress q.k q.input
  | .decompress => Config.decompress q.k q.input

/-- The response that a treatment of a request gives; `none`: no response yet. -/
def resolve (a : Answer) (q : Request) : Option Response :=
  match a with
  | .byFunction => some (portFunction q)
  | .gives r => some r
  | .withholds => none

/-- Send a request: the service treats it as the next entry of `State.service` says, and by its
functions when there is none (entry 9). -/
def ask (q : Request) (s : State) : Option Response × State :=
  match s.service with
  | [] => (some (portFunction q), s)
  | a :: rest => (resolve a q, { s with service := rest })

/-! ### Checks and buffers (R163, R164) -/

/-- The VALIDATE checks: R163 checks 1 to 3, R164 checks 1 to 5. -/
def ccChecks (op : PortOp) (s : State) : List Check :=
  match op with
  | .compress =>
    [ (outOfSpace s (srcBuf s), .range),
      (outOfSpace s (dstBuf s), .range),
      (!disjoint (srcBuf s) (dstBuf s), .overlap) ]
  | .decompress =>
    [ (decide (s.cfg.nAlgo < s.algo.toNat), .badTag),
      (outOfSpace s (srcBuf s), .range),
      (outOfSpace s (dstBuf s), .range),
      (!disjoint (srcBuf s) (dstBuf s), .overlap),
      (decide (s.algo.toNat = 0) && decide (s.dstCap.toNat < s.srcLen.toNat), .capacity) ]

/-- The input byte string. -/
def ccInput (s : State) : List Byte := readBytes s.mem s.srcAddr.toNat s.srcLen.toNat

/-- The buffers a CC command names. -/
def ccNamed (s : State) : List Buf := [srcBuf s, dstBuf s]

/-- The COMMIT step: R163 writes ALGO and OUT_LEN, R164 writes OUT_LEN. -/
def ccCommit (op : PortOp) (s : State) : Commit :=
  let len := BitVec.ofNat 64 (s.engine.bestLen.getD 0)
  match op with
  | .compress => { algo := some (BitVec.ofNat 64 s.engine.bestK), outLen := some len }
  | .decompress => { outLen := some len }

/-! ### The FSM's transitions (R162) -/

/-- Any state → ERROR: raise that error. -/
def toError (e : Cause) (s : State) : State :=
  { s with engine := { s.engine with fsm := .error, cause := some e } }

/-- CHECK → SIZE with k; best_k ← 0, best_len ← ∞. -/
def toSize (k : Nat) (s : State) : State :=
  { s with
    engine :=
      { s.engine with
        fsm := .size, k := k, bestK := 0, bestLen := none, mode := s.engine.mode.atPhase .read } }

/-- → COMMIT. -/
def toCommit (s : State) : State :=
  { s with engine := { s.engine with fsm := .commit, mode := s.engine.mode.atPhase .commit } }

/-- The best output so far. -/
def setBest (k len : Nat) (s : State) : State :=
  { s with engine := { s.engine with bestK := k, bestLen := some len } }

/-- |r| < best_len, best_len possibly ∞. -/
def shorter (len : Nat) : Option Nat → Bool
  | none => true
  | some b => decide (len < b)

/-- The error of a `fail` response in SIZE (R163 check 5, R164 check 7). -/
def sizeFailure (op : PortOp) (k : Nat) : Cause :=
  match op with
  | .compress => .compressFail k
  | .decompress => .decompressFail k

/-- CHECK (R162, rows 2 to 6). -/
def fsmCheck (op : PortOp) (s : State) : State :=
  match firstFailure (ccChecks op s) with
  | some e => toError e s
  | none =>
    match op with
    | .compress => if s.srcLen.toNat = 0 then toCommit (setBest 0 0 s) else toSize 1 s
    | .decompress =>
      if s.algo.toNat = 0 then
        { s with engine := { s.engine with fsm := .copy, mode := s.engine.mode.atPhase .read } }
      else if s.srcLen.toNat = 0 then toCommit (setBest s.algo.toNat 0 s)
      else toSize s.algo.toNat s

/-- SIZE with a response (R162, rows 8 to 11). -/
def sizeAnswer (op : PortOp) (r : Response) (s : State) : State :=
  match r with
  | .fail => toError (sizeFailure op s.engine.k) s
  | .ok bs =>
    match op with
    | .compress =>
      let s1 := if shorter bs.length s.engine.bestLen then setBest s.engine.k bs.length s else s
      if s.engine.k < s.cfg.nAlgo then { s1 with engine := { s1.engine with k := s1.engine.k + 1 } }
      else { s1 with engine := { s1.engine with fsm := .pick } }
    | .decompress =>
      let s1 := setBest s.engine.k bs.length s
      { s1 with engine := { s1.engine with fsm := .pick } }

/-- SIZE, with the input bytes read: send the request (R162, row 7). -/
def sendSize (op : PortOp) (bs : List Byte) (s : State) : State :=
  match ask ⟨op, s.engine.k, bs⟩ s with
  | (none, s1) => { s1 with engine := { s1.engine with request := some ⟨op, s.engine.k, bs⟩ } }
  | (some r, s1) => sizeAnswer op r s1

/-- The engine holds the input bytes it has read, for every request of the command (R162, R163;
60_exceptions.md R184: reads happen only in READ; entry 23). -/
def holdInput (s : State) : State := { s with engine := { s.engine with input := some (ccInput s) } }

/-- SIZE (R162, row 7): read the input, once for the command (R163), and send the request. -/
def fsmSize (op : PortOp) (s : State) : State :=
  match s.engine.input with
  | some bs => sendSize op bs s
  | none =>
    match refusedIn s.cfg [srcBuf s] with
    | a :: bad => toError (busReadCause s (a :: bad)) s
    | [] => sendSize op (ccInput s) (holdInput s)

/-- PICK (R162): CAPACITY, or into WRITE with the extent (DST_ADDR, best_len). -/
def fsmPick (s : State) : State :=
  let len := s.engine.bestLen.getD 0
  if s.dstCap.toNat < len then toError .capacity s
  else
    { s with
      engine :=
        { s.engine with
          fsm := .emit
          mode := s.engine.mode.atPhase .write
          extent := [⟨s.dstAddr.toNat, len⟩] } }

/-- Store bytes at DST and go to COMMIT, or BusError(BUS_WRITE) (R162 EMIT and COPY). The extent is lost
at the completion (`fsmError`). -/
def storeOutput (bs : List Byte) (s : State) : State :=
  match refusedIn s.cfg s.engine.extent with
  | [] => toCommit { s with mem := writeBytes s.mem s.dstAddr.toNat bs }
  | a :: bad => toError (busWriteCause s (a :: bad)) s

/-- EMIT with a response (R162): another length or `fail` is NONDETERMINISTIC, raised in WRITE. -/
def emitAnswer (r : Response) (s : State) : State :=
  match r with
  | .ok bs =>
    if s.engine.bestLen = some bs.length then storeOutput bs s
    else toError (.nondeterministic s.engine.bestK) s
  | .fail => toError (.nondeterministic s.engine.bestK) s

/-- The input bytes the engine holds. -/
def heldInput (s : State) : List Byte := s.engine.input.getD []

/-- EMIT: the request (op, best_k) again on the same input bytes (R162), which the engine holds: data
memory is not read here (60_exceptions.md R184). -/
def fsmEmit (op : PortOp) (s : State) : State :=
  match ask ⟨op, s.engine.bestK, heldInput s⟩ s with
  | (none, s1) =>
    { s1 with engine := { s1.engine with request := some ⟨op, s.engine.bestK, heldInput s⟩ } }
  | (some r, s1) => emitAnswer r s1

/-- COPY (R162): SRC bytes to DST unchanged; best_k ← 0, best_len ← SRC_LEN. -/
def fsmCopy (s : State) : State :=
  match refusedIn s.cfg [srcBuf s] with
  | a :: bad => toError (busReadCause s (a :: bad)) s
  | [] =>
    storeOutput (ccInput s)
      { s with
        engine :=
          { s.engine with
            bestK := 0
            bestLen := some s.srcLen.toNat
            mode := s.engine.mode.atPhase .write
            extent := [⟨s.dstAddr.toNat, s.srcLen.toNat⟩] } }

/-- ERROR → IDLE: completion with the raised error (R162). An error raised before WRITE has no output
extent and is precise; one raised in WRITE leaves any value in the extent at the completion, so that
another agent's write after the error was raised does not stay definite (60_exceptions.md R183;
20_memory.md R74). -/
def fsmError (s : State) : State :=
  match s.engine.cause, s.engine.extent with
  | some e, [] => s.fail e
  | some e, b :: rest => s.failLosing (b :: rest) e
  | none, _ => s

/-- One transition of the FSM (R162). While a request is outstanding the engine waits (R166). -/
def fsmMove (op : PortOp) (s : State) : State :=
  if s.engine.request.isSome then s
  else
    match s.engine.fsm with
    | .idle => { s with engine := { s.engine with fsm := .check } }
    | .check => fsmCheck op s
    | .size => fsmSize op s
    | .pick => fsmPick s
    | .emit => fsmEmit op s
    | .copy => fsmCopy s
    | .commit => conclude (ccNamed s) s.engine.extent (ccCommit op s) s
    | .error => fsmError s

/-- The FSM until the command completes or waits for a response. -/
def fsmRun (op : PortOp) : Nat → State → State
  | 0, s => s
  | n + 1, s =>
    if !s.busy || s.engine.request.isSome then s else fsmRun op n (fsmMove op s)

/-- The FSM in CHECK, at the start of a CC command. -/
def enterCheck (s : State) : State :=
  { s with
    engine :=
      { Engine.idle with
        mode :=
          match s.engine.mode with
          | .idle => .running s.cmd .validate
          | .running c _ => .running c .validate
        fsm := .check
        raced := s.engine.raced } }

/-- A CC command from CHECK on: CHECK, N_ALGO times SIZE, PICK, EMIT and COMMIT at most. -/
def runSelector (op : PortOp) (s : State) : State := fsmRun op (s.cfg.nAlgo + 4) (enterCheck s)

/-- CC.SELECT (R163). If the service withholds an answer, the command is left RUNNING. -/
def execCcSelect (s : State) : Outcome := .next (runSelector .compress s)

/-- CC.EXPAND (R164). If the service withholds an answer, the command is left RUNNING. -/
def execCcExpand (s : State) : Outcome := .next (runSelector .decompress s)

/-! ### An answer that comes later (R166; 70_reset_and_hazards.md R201) -/

/-- The response to the outstanding request, if there is one (R166); `withholds` is no response yet. -/
def takeAnswer (a : Answer) (s : State) : State :=
  match s.engine.request with
  | none => s
  | some q =>
    match resolve a q with
    | none => s
    | some r =>
      let s1 := { s with engine := { s.engine with request := none } }
      match s.engine.fsm with
      | .size => sizeAnswer q.op r s1
      | .emit => emitAnswer r s1
      | .idle => s1
      | .check => s1
      | .pick => s1
      | .copy => s1
      | .commit => s1
      | .error => s1

/-- A response to the request that was sent after the n-th reset. A reset since then has abandoned that
request: its response is discarded and changes no state, whatever a later command has outstanding (R201;
93_implementation_defined.md X17). That the count of resets tells the two apart is the model's
(DESIGN CHOICE, entry 27). -/
def serviceAnswer (n : Nat) (a : Answer) (s : State) : State :=
  if n = s.resets then takeAnswer a s else s

end Sys2Proof.Machine
end

