-- ==== Sys2Proof/Machine/DeltaCodec.lean ====
section
/-!
DEFINITION. The FixedWidthDeltaCodec unit: DD.ENC, DD.DEC (41_delta_codec.md R130 to R133).
-/

namespace Sys2Proof.Machine

/-! ### DD.ENC (R132) -/

/-- R132, checks 1 to 6. -/
def ddEncChecks (w : Width) (s : State) : List Check :=
  [ (badCount s, .count),
    (notMultiple w s.srcAddr, .misaligned),
    (notMultiple w s.dstAddr, .misaligned),
    (outOfSpace s (srcArray w s), .range),
    (outOfSpace s (dstBuf s), .range),
    (!disjoint (srcArray w s) (dstBuf s), .overlap) ]

/-- The elements read as signed_W (R130). -/
def signedElements (w : Width) (s : State) : List Int := (srcElements w s).map (signedOf (wBits w))

/-- min (R130); the list is not empty once the checks have passed. -/
def leastOf (xs : List Int) : Int := xs.min?.getD 0

/-- max (R130). -/
def greatestOf (xs : List Int) : Int := xs.max?.getD 0

/-- bitWidth = bitsNeeded(max − min) (R130). -/
def deltaWidth (xs : List Int) : Nat := bitsNeeded (greatestOf xs - leastOf xs).toNat

/-- The field values s[i] − min (R132). -/
def deltaFields (xs : List Int) : List Nat := xs.map (fun x => (x - leastOf xs).toNat)

/-- READ of DD.ENC with check 8 (CAPACITY), the payload, and MIN, BITWIDTH, OUT_LEN (R132). -/
def ddEncPlan (w : Width) (s : State) : Except Cause Job :=
  let xs := signedElements w s
  let bw := deltaWidth xs
  let n := s.count.toNat
  let pd := packedSize w n bw
  if s.dstCap.toNat < pd then .error .capacity
  else
    .ok { out := [⟨s.dstAddr.toNat, wordsBytes (wBytes w) (packWords w bw (deltaFields xs))⟩]
          commit :=
            { minReg := some (wordOfInt (leastOf xs))
              bitWidth := some (BitVec.ofNat 64 bw)
              outLen := some (BitVec.ofNat 64 pd) }
          loop := { i := n, o := n * bw, accMin := leastOf xs, accMax := greatestOf xs } }

/-- DD.ENC (R132). -/
def ddEncRule (w : Width) : Rule :=
  { checks := ddEncChecks w
    reads := fun s => [srcArray w s]
    plan := ddEncPlan w
    named := fun s => [srcArray w s, dstBuf s]
    outputs := fun s => [dstBuf s] }

/-- DD.ENC.32 (R132). -/
def execDdEnc32 (s : State) : Outcome := .next (runRule (ddEncRule .w32) s)

/-- DD.ENC.64 (R132). -/
def execDdEnc64 (s : State) : Outcome := .next (runRule (ddEncRule .w64) s)

/-! ### DD.DEC (R133) -/

/-- bw = signed_64(BITWIDTH) (R133). -/
def headerWidth (s : State) : Int := s.bitWidth.toInt

/-- R133, checks 1 to 10. -/
def ddDecChecks (w : Width) (s : State) : List Check :=
  [ (decide (headerWidth s < 0), .negBitwidth),
    (decide ((wBits w : Int) < headerWidth s), .bitwidthRange),
    (badCount s, .hdrCount),
    (decide (s.srcLen.toNat ≠ packedSize w s.count.toNat (headerWidth s).toNat), .lenMismatch),
    (notMultiple w s.srcAddr, .misaligned),
    (notMultiple w s.dstAddr, .misaligned),
    (outOfSpace s (srcBuf s), .range),
    (outOfSpace s (dstBuf s), .range),
    (!disjoint (srcBuf s) (dstBuf s), .overlap),
    (decide (s.dstCap.toNat < s.count.toNat * wBytes w), .capacity) ]

/-- out[i] = (MIN[W−1:0] + field i) mod 2^W (R133); a field of width 0 is 0. -/
def deltaDecoded (w : Width) (s : State) : List Nat :=
  (unpackFields w (headerWidth s).toNat (packedWords w s) s.count.toNat).map
    (fun f => maskTo (wBits w) (lowBits w s.minReg + f))

/-- DD.DEC's words and OUT_LEN ← n·B (R133). -/
def ddDecPlan (w : Width) (s : State) : Except Cause Job :=
  let n := s.count.toNat
  .ok (wordsJob w s (deltaDecoded w s) { i := n, o := n * (headerWidth s).toNat })

/-- DD.DEC (R133). -/
def ddDecRule (w : Width) : Rule :=
  { checks := ddDecChecks w
    reads := fun s => [srcBuf s]
    plan := ddDecPlan w
    named := fun s => [srcBuf s, dstBuf s]
    outputs := fun s => [dstBuf s] }

/-- DD.DEC.32 (R133). -/
def execDdDec32 (s : State) : Outcome := .next (runRule (ddDecRule .w32) s)

/-- DD.DEC.64 (R133). -/
def execDdDec64 (s : State) : Outcome := .next (runRule (ddDecRule .w64) s)

end Sys2Proof.Machine
end

