-- ==== Sys2Proof/Machine/FloatSplitter.lean ====
section
/-!
DEFINITION. The FloatComponentSplitter unit: FS.SPLIT, FS.RECOMB (42_float_splitter.md R145 to R147).
-/

namespace Sys2Proof.Machine

/-! ### Fields (R145) -/

/-- s = b >> (W−1) -/
def signOf (w : Width) (b : Nat) : Nat := b >>> (wBits w - 1)

/-- e = (b >> M) & mask(E) -/
def exponentOf (w : Width) (b : Nat) : Nat := maskTo (expBits w) (b >>> sigBits w)

/-- m = b & mask(M) -/
def significandOf (w : Width) (b : Nat) : Nat := maskTo (sigBits w) b

/-- b = (s << (W−1)) | (e << M) | m -/
def assemble (w : Width) (sg e m : Nat) : Nat := sg <<< (wBits w - 1) ||| e <<< sigBits w ||| m

/-- The elements after the first: each XORed with its predecessor (R146). -/
def xorWithPrevious : Nat → List Nat → List Nat
  | _, [] => []
  | prev, x :: xs => (x ^^^ prev) :: xorWithPrevious x xs

/-- c[0] = f[0], c[i] = f[i] ^ f[i−1] with the previous ORIGINAL field (R146). -/
def xorDelta : List Nat → List Nat
  | [] => []
  | x :: xs => x :: xorWithPrevious x xs

/-- The rebuilt elements after the first: each the XOR of the rebuilt predecessor and the delta (R147). -/
def undoFrom : Nat → List Nat → List Nat
  | _, [] => []
  | prev, d :: ds => (prev ^^^ d) :: undoFrom (prev ^^^ d) ds

/-- f[0] = c[0], f[i] = f[i−1] ^ c[i] (R147). -/
def xorUndo : List Nat → List Nat
  | [] => []
  | d :: ds => d :: undoFrom d ds

/-! ### FS.SPLIT (R146) -/

/-- R146, checks 1 to 5. -/
def fsSplitChecks (w : Width) (s : State) : List Check :=
  [ (badCount s, .count),
    (notMultiple w s.srcAddr, .misaligned),
    (notMultiple w s.ch0Addr, .misaligned),
    (notMultiple w s.ch1Addr, .misaligned),
    (notMultiple w s.ch2Addr, .misaligned),
    (outOfSpace s (srcArray w s), .range),
    (outOfSpace s (ch0Array w s), .range),
    (outOfSpace s (ch1Array w s), .range),
    (outOfSpace s (ch2Array w s), .range),
    (!disjoint (srcArray w s) (ch0Array w s), .overlap),
    (!disjoint (srcArray w s) (ch1Array w s), .overlap),
    (!disjoint (srcArray w s) (ch2Array w s), .overlap),
    (!disjoint (ch0Array w s) (ch1Array w s), .overlap),
    (!disjoint (ch0Array w s) (ch2Array w s), .overlap),
    (!disjoint (ch1Array w s) (ch2Array w s), .overlap) ]

/-- The sign channel c0 (R146). -/
def signChannel (w : Width) (vs : List Nat) : List Nat := vs.map (signOf w)

/-- The exponent channel c1 (R146). -/
def exponentChannel (w : Width) (vs : List Nat) : List Nat := xorDelta (vs.map (exponentOf w))

/-- The significand channel c2 (R146). -/
def significandChannel (w : Width) (vs : List Nat) : List Nat := xorDelta (vs.map (significandOf w))

/-- The three channel arrays and OUT_LEN ← n·B (R146). -/
def fsSplitPlan (w : Width) (s : State) : Except Cause Job :=
  let vs := srcElements w s
  let n := s.count.toNat
  .ok { out :=
          [ ⟨s.ch0Addr.toNat, wordsBytes (wBytes w) (signChannel w vs)⟩,
            ⟨s.ch1Addr.toNat, wordsBytes (wBytes w) (exponentChannel w vs)⟩,
            ⟨s.ch2Addr.toNat, wordsBytes (wBytes w) (significandChannel w vs)⟩ ]
        commit := { outLen := some (BitVec.ofNat 64 (n * wBytes w)) }
        loop :=
          { i := n
            prevExp := (vs.map (exponentOf w)).getLastD 0
            prevSig := (vs.map (significandOf w)).getLastD 0 } }

/-- FS.SPLIT (R146). -/
def fsSplitRule (w : Width) : Rule :=
  { checks := fsSplitChecks w
    reads := fun s => [srcArray w s]
    plan := fsSplitPlan w
    named := fun s => [srcArray w s, ch0Array w s, ch1Array w s, ch2Array w s]
    outputs := fun s => [ch0Array w s, ch1Array w s, ch2Array w s] }

/-- FS.SPLIT.32 (R146). -/
def execFsSplit32 (s : State) : Outcome := .next (runRule (fsSplitRule .w32) s)

/-- FS.SPLIT.64 (R146). -/
def execFsSplit64 (s : State) : Outcome := .next (runRule (fsSplitRule .w64) s)

/-! ### FS.RECOMB (R147) -/

/-- R147, checks 1 to 6. The input channels may overlap one another. -/
def fsRecombChecks (w : Width) (s : State) : List Check :=
  [ (badCount s, .hdrCount),
    (notMultiple w s.ch0Addr, .misaligned),
    (notMultiple w s.ch1Addr, .misaligned),
    (notMultiple w s.ch2Addr, .misaligned),
    (notMultiple w s.dstAddr, .misaligned),
    (outOfSpace s (ch0Array w s), .range),
    (outOfSpace s (ch1Array w s), .range),
    (outOfSpace s (ch2Array w s), .range),
    (outOfSpace s (dstBuf s), .range),
    (!disjoint (ch0Array w s) (dstBuf s), .overlap),
    (!disjoint (ch1Array w s) (dstBuf s), .overlap),
    (!disjoint (ch2Array w s) (dstBuf s), .overlap),
    (decide (s.dstCap.toNat < s.count.toNat * wBytes w), .capacity) ]

/-- The elements of the channel array at an address. -/
def channelElements (w : Width) (s : State) (addr : Word) : List Nat :=
  readWords s.mem (wBytes w) addr.toNat s.count.toNat

/-- R147, check 8: some element is wider than its field. -/
def fieldOutOfRange (w : Width) (c0 c1 c2 : List Nat) : Bool :=
  c0.any (fun x => decide (1 < x)) || c1.any (fun x => decide (2 ^ expBits w ≤ x)) ||
    c2.any (fun x => decide (2 ^ sigBits w ≤ x))

/-- The values rebuilt from signs, exponents and significands, element by element (R147). -/
def assembleAll (w : Width) : List Nat → List Nat → List Nat → List Nat
  | sg :: sgs, e :: es, m :: ms => assemble w sg e m :: assembleAll w sgs es ms
  | _, _, _ => []

/-- out[i] of R147. -/
def recombined (w : Width) (c0 c1 c2 : List Nat) : List Nat :=
  assembleAll w c0 (xorUndo c1) (xorUndo c2)

/-- READ of FS.RECOMB with check 8, the rebuilt values and OUT_LEN ← n·B (R147). -/
def fsRecombPlan (w : Width) (s : State) : Except Cause Job :=
  let c0 := channelElements w s s.ch0Addr
  let c1 := channelElements w s s.ch1Addr
  let c2 := channelElements w s s.ch2Addr
  if fieldOutOfRange w c0 c1 c2 then .error .fieldRange
  else
    .ok (wordsJob w s (recombined w c0 c1 c2)
      { i := s.count.toNat
        prevExp := (xorUndo c1).getLastD 0
        prevSig := (xorUndo c2).getLastD 0 })

/-- FS.RECOMB (R147). -/
def fsRecombRule (w : Width) : Rule :=
  { checks := fsRecombChecks w
    reads := fun s => [ch0Array w s, ch1Array w s, ch2Array w s]
    plan := fsRecombPlan w
    named := fun s => [ch0Array w s, ch1Array w s, ch2Array w s, dstBuf s]
    outputs := fun s => [dstBuf s] }

/-- FS.RECOMB.32 (R147). -/
def execFsRecomb32 (s : State) : Outcome := .next (runRule (fsRecombRule .w32) s)

/-- FS.RECOMB.64 (R147). -/
def execFsRecomb64 (s : State) : Outcome := .next (runRule (fsRecombRule .w64) s)

end Sys2Proof.Machine
end

