-- ==== Sys2Proof/Machine/Dispatch.lean ====
section
/-!
DEFINITION. The meaning of each command, one arm per constructor of `Instr`.
-/

namespace Sys2Proof.Machine

def exec (i : Instr) (s : State) : Host.Outcome State Fault Refusal :=
  match i with
  | .bsWr32 => Sys2Proof.Machine.execBsWr32 s
  | .bsWr64 => Sys2Proof.Machine.execBsWr64 s
  | .bsRd32 => Sys2Proof.Machine.execBsRd32 s
  | .bsRd64 => Sys2Proof.Machine.execBsRd64 s
  | .bsPack32 => Sys2Proof.Machine.execBsPack32 s
  | .bsPack64 => Sys2Proof.Machine.execBsPack64 s
  | .bsUnpack32 => Sys2Proof.Machine.execBsUnpack32 s
  | .bsUnpack64 => Sys2Proof.Machine.execBsUnpack64 s
  | .ddEnc32 => Sys2Proof.Machine.execDdEnc32 s
  | .ddEnc64 => Sys2Proof.Machine.execDdEnc64 s
  | .ddDec32 => Sys2Proof.Machine.execDdDec32 s
  | .ddDec64 => Sys2Proof.Machine.execDdDec64 s
  | .fsSplit32 => Sys2Proof.Machine.execFsSplit32 s
  | .fsSplit64 => Sys2Proof.Machine.execFsSplit64 s
  | .fsRecomb32 => Sys2Proof.Machine.execFsRecomb32 s
  | .fsRecomb64 => Sys2Proof.Machine.execFsRecomb64 s
  | .ccSelect => Sys2Proof.Machine.execCcSelect s
  | .ccExpand => Sys2Proof.Machine.execCcExpand s

end Sys2Proof.Machine
end

