-- ==== Sys2Proof/Machine/HostPort.lean ====
section
/-!
DEFINITION. What moves outside a command: the host's register port (10_state.md R20 to R33), the other
agents' accesses to data memory (20_memory.md R73, R74), the engine's phase-by-phase moves
(30_encoding.md R93), the choice of the next move, and the host notation of 30_encoding.md R91.
-/

namespace Sys2Proof.Machine

/-! ### The register map (10_state.md R21) -/

/-- The registers of 10_state.md R21. -/
inductive Reg where
  | id
  | cap
  | ctrl
  | cmd
  | status
  | errAddr
  | srcAddr
  | srcLen
  | dstAddr
  | dstCap
  | ch0Addr
  | ch1Addr
  | ch2Addr
  | count
  | bitOffset
  | fieldWidth
  | value
  | result
  | minReg
  | bitWidth
  | algo
  | outLen
deriving DecidableEq, Repr

/-- The byte offset of a register (R21). -/
def Reg.offset : Reg → Nat
  | .id => 0x00
  | .cap => 0x08
  | .ctrl => 0x10
  | .cmd => 0x18
  | .status => 0x20
  | .errAddr => 0x28
  | .srcAddr => 0x30
  | .srcLen => 0x38
  | .dstAddr => 0x40
  | .dstCap => 0x48
  | .ch0Addr => 0x50
  | .ch1Addr => 0x58
  | .ch2Addr => 0x60
  | .count => 0x68
  | .bitOffset => 0x70
  | .fieldWidth => 0x78
  | .value => 0x80
  | .result => 0x88
  | .minReg => 0x90
  | .bitWidth => 0x98
  | .algo => 0xA0
  | .outLen => 0xA8

/-- The registers in the order of their offsets. -/
def allRegs : List Reg :=
  [.id, .cap, .ctrl, .cmd, .status, .errAddr, .srcAddr, .srcLen, .dstAddr, .dstCap, .ch0Addr, .ch1Addr,
    .ch2Addr, .count, .bitOffset, .fieldWidth, .value, .result, .minReg, .bitWidth, .algo, .outLen]

/-- The register at a byte offset; `none` is a reserved offset (R32). -/
def regAt (off : Nat) : Option Reg := allRegs.find? (fun r => r.offset == off)

/-- The value a read of a register returns (R21 to R30). Reads have no side effects (R31). -/
def readReg (r : Reg) (s : State) : Word :=
  match r with
  | .id => idWord
  | .cap => capWord s.cfg
  | .ctrl => ctrlWord s
  | .cmd => s.cmd
  | .status => statusWord s
  | .errAddr => s.errAddr
  | .srcAddr => s.srcAddr
  | .srcLen => s.srcLen
  | .dstAddr => s.dstAddr
  | .dstCap => s.dstCap
  | .ch0Addr => s.ch0Addr
  | .ch1Addr => s.ch1Addr
  | .ch2Addr => s.ch2Addr
  | .count => s.count
  | .bitOffset => s.bitOffset
  | .fieldWidth => s.fieldWidth
  | .value => s.value
  | .result => s.result
  | .minReg => s.minReg
  | .bitWidth => s.bitWidth
  | .algo => s.algo
  | .outLen => s.outLen

/-- A CTRL write (R24): IE from bit 0; bit 1 is the soft reset, which also clears IE. -/
def writeCtrl (v : Word) (s : State) : State :=
  if v.getLsbD 1 then resetMachine s else { s with ie := v.getLsbD 0 }

/-- A write of a register other than CTRL and STATUS while BUSY = 0: CMD issues a command (R25), the
operand registers take the value (R28), the read-only registers ignore it (R32). -/
def writeIdle (r : Reg) (v : Word) (s : State) : State :=
  match r with
  | .id => s
  | .cap => s
  | .ctrl => s
  | .cmd => accept v s
  | .status => s
  | .errAddr => s
  | .srcAddr => { s with srcAddr := v }
  | .srcLen => { s with srcLen := v }
  | .dstAddr => { s with dstAddr := v }
  | .dstCap => { s with dstCap := v }
  | .ch0Addr => { s with ch0Addr := v }
  | .ch1Addr => { s with ch1Addr := v }
  | .ch2Addr => { s with ch2Addr := v }
  | .count => { s with count := v }
  | .bitOffset => { s with bitOffset := v }
  | .fieldWidth => { s with fieldWidth := v }
  | .value => { s with value := v }
  | .result => s
  | .minReg => { s with minReg := v }
  | .bitWidth => { s with bitWidth := v }
  | .algo => { s with algo := v }
  | .outLen => s

/-- A host write at a byte offset of the block (R24 to R33): CTRL and STATUS always; any other offset,
reserved ones included, is ignored and sets OVERRUN while BUSY = 1 (R33). -/
def writeOffset (off : Nat) (v : Word) (s : State) : State :=
  match regAt off with
  | some .ctrl => writeCtrl v s
  | some .status => acknowledge v s
  | some r => if s.busy then { s with overrun := true } else writeIdle r v s
  | none => if s.busy then { s with overrun := true } else s

/-- A host read at a byte offset of the block: reserved offsets read 0 (R32). -/
def readOffset (off : Nat) (s : State) : Word :=
  match regAt off with
  | some r => readReg r s
  | none => 0

/-- How the register port takes a host access (R20, R31; entry 11). -/
inductive PortAccess where
  /-- no byte of the block is touched: not BSCORE's access -/
  | elsewhere
  /-- the block is touched by an access that is not an aligned 8-byte one: refused -/
  | refused
  /-- the register slot at this byte offset -/
  | slot (off : Nat)
deriving DecidableEq, Repr

/-- The register port's decoding of a host address and size (R20, R31). -/
def portAccess (p : Params) (addr size : Nat) : PortAccess :=
  if addr + size ≤ p.regBase ∨ p.regBase + 256 ≤ addr then .elsewhere
  else if size = 8 ∧ p.regBase ≤ addr ∧ (addr - p.regBase) % 8 = 0 then .slot (addr - p.regBase)
  else .refused

/-- A host read (R31): it changes nothing but the reply. -/
def hostRead (addr size : Nat) (s : State) : State :=
  match portAccess s.cfg addr size with
  | .elsewhere => { s with reply := .none }
  | .refused => { s with reply := .busError }
  | .slot off => { s with reply := .data (readOffset off s) }

/-- A host write (R31). -/
def hostWrite (addr size : Nat) (v : Word) (s : State) : State :=
  match portAccess s.cfg addr size with
  | .elsewhere => { s with reply := .none }
  | .refused => { s with reply := .busError }
  | .slot off => { writeOffset off v s with reply := .accepted }

/-! ### The units behind the commands -/

/-- The unit that runs a command: a rule in four phases, or the selector FSM. -/
inductive CommandUnit where
  | rule (r : Rule)
  | selector (op : PortOp)

/-- The unit of each command (30_encoding.md R88). -/
def unitOf (i : Instr) : CommandUnit :=
  match i with
  | .bsWr32 => .rule (bsWrRule .w32)
  | .bsWr64 => .rule (bsWrRule .w64)
  | .bsRd32 => .rule (bsRdRule .w32)
  | .bsRd64 => .rule (bsRdRule .w64)
  | .bsPack32 => .rule (bsPackRule .w32)
  | .bsPack64 => .rule (bsPackRule .w64)
  | .bsUnpack32 => .rule (bsUnpackRule .w32)
  | .bsUnpack64 => .rule (bsUnpackRule .w64)
  | .ddEnc32 => .rule (ddEncRule .w32)
  | .ddEnc64 => .rule (ddEncRule .w64)
  | .ddDec32 => .rule (ddDecRule .w32)
  | .ddDec64 => .rule (ddDecRule .w64)
  | .fsSplit32 => .rule (fsSplitRule .w32)
  | .fsSplit64 => .rule (fsSplitRule .w64)
  | .fsRecomb32 => .rule (fsRecombRule .w32)
  | .fsRecomb64 => .rule (fsRecombRule .w64)
  | .ccSelect => .selector .compress
  | .ccExpand => .selector .decompress

/-- The buffers a command names (70_reset_and_hazards.md R206). -/
def namedBy (i : Instr) (s : State) : List Buf :=
  match unitOf i with
  | .rule r => r.named s
  | .selector _ => ccNamed s

/-- The output buffers a command names (20_memory.md R74). -/
def outputsOf (i : Instr) (s : State) : List Buf :=
  match unitOf i with
  | .rule r => r.outputs s
  | .selector _ => [dstBuf s]

/-- The buffers the running command names; none when IDLE or when the command word is illegal. -/
def namedNow (s : State) : List Buf :=
  match s.engine.mode with
  | .idle => []
  | .running c _ =>
    match decode c with
    | .ok i => namedBy i s
    | .error _ => []

/-- The output buffers the running command names. -/
def outputsNow (s : State) : List Buf :=
  match s.engine.mode with
  | .idle => []
  | .running c _ =>
    match decode c with
    | .ok i => outputsOf i s
    | .error _ => []

/-! ### One move of the engine (30_encoding.md R93) -/

/-- The engine's move at its phase: an illegal word completes at once (R89, R93), a rule makes its phase,
the selector makes one transition. IDLE waits. -/
def engineMove (s : State) : State :=
  match s.engine.mode with
  | .idle => s
  | .running c ph =>
    match decode c with
    | .error e => s.fail (illegalCause e)
    | .ok i =>
      match unitOf i with
      | .rule r => ruleMove r ph s
      | .selector op => fsmMove op s

/-! ### Other agents on data memory (20_memory.md R73, R74) -/

/-- Another agent writes data memory. If it writes a byte of a buffer the running command names, the
command's results are open (R74). -/
def agentWrite (addr : Nat) (bs : List Byte) (s : State) : State :=
  { s with
    mem := writeBytes s.mem addr bs
    engine :=
      { s.engine with
        raced := s.engine.raced || (namedNow s).any (fun b => meets b ⟨addr, bs.length⟩) }
    reply := .accepted }

/-- The bytes another agent reads: a byte of an output buffer of the running command has any value
(R74). -/
def agentBytes (s : State) (addr : Nat) : Nat → List Byte
  | 0 => []
  | n + 1 =>
    (if (outputsNow s).any (fun b => hasByte b addr) then Config.freeByte s.fresh addr
      else readByte s.mem addr) :: agentBytes s (addr + 1) n

/-- Another agent reads data memory. -/
def agentRead (addr len : Nat) (s : State) : State :=
  { s with
    reply := .bytes (agentBytes s addr len)
    fresh := if (outputsNow s).any (fun b => meets b ⟨addr, len⟩) then s.fresh + 1 else s.fresh }

/-- The data space is [0, 2^ADDR_BITS) (20_memory.md R60). -/
def inDataSpace (p : Params) (addr len : Nat) : Bool := decide (addr + len ≤ 2 ^ p.addrBits)

/-- One pending move of the environment, or the move it grants the engine. -/
def applyInput (i : Input) (s : State) : Outcome :=
  match i with
  | .regRead addr size => .next (hostRead addr size s)
  | .regWrite addr size v => .next (hostWrite addr size v s)
  | .engine => .next (engineMove s)
  | .answer n a => .next (serviceAnswer n a s)
  | .memRead addr len =>
    if inDataSpace s.cfg addr len then .next (agentRead addr len s) else .fault .noSuchAddress
  | .memWrite addr bs =>
    if inDataSpace s.cfg addr bs.length then .next (agentWrite addr bs s) else .fault .noSuchAddress
  | .powerOn => .next (resetMachine s)

/-! ### The next move (entry 3) -/

/-- What the machine does next. -/
inductive Move where
  /-- a pending move of the environment, and the moves after it -/
  | input (i : Input) (rest : List Input)
  /-- nothing pending, IDLE: wait for a CMD write (70_reset_and_hazards.md R203) -/
  | wait
  /-- nothing pending, an accepted command at VALIDATE: run it (30_encoding.md R96) -/
  | run (i : Instr)
  /-- nothing pending, an accepted illegal word: complete it (30_encoding.md R89) -/
  | illegal (e : Illegal)
  /-- nothing pending, a command past VALIDATE: its next phase -/
  | resume
deriving DecidableEq, Repr

/-- The next move: the environment's pending moves first, then the engine's. -/
def nextMove (s : State) : Move :=
  match s.inputs with
  | i :: rest => .input i rest
  | [] =>
    match s.engine.mode with
    | .idle => .wait
    | .running c .validate =>
      match decode c with
      | .ok i => .run i
      | .error e => .illegal e
    | .running _ .read => .resume
    | .running _ .write => .resume
    | .running _ .commit => .resume

/-- A command word accepted with nothing else pending, so that the next step runs it (entry 21). -/
def placeCommand (c : Word) (s : State) : State := { accept c s with inputs := [] }

/-! ### Host notation (30_encoding.md R91) -/

/-- The host statements of R91 that make bus operations, and the pseudo-statements over them. -/
inductive HostStmt where
  | set (r : Reg) (v : Word)
  | issue (i : Instr)
  | issueWord (c : Word)
  | read (r : Reg)
  | ack
  | wait
  | run (i : Instr)
deriving DecidableEq, Repr

/-- A 64-bit register write at REG_BASE. -/
def busWriteOf (p : Params) (r : Reg) (v : Word) : Input := .regWrite (p.regBase + r.offset) 8 v

/-- A 64-bit register read at REG_BASE. -/
def busReadOf (p : Params) (r : Reg) : Input := .regRead (p.regBase + r.offset) 8

/-- The moves of `wait`: the engine gets as many moves as any command needs, then the host polls STATUS
once more (entry 24). -/
def waitMoves (p : Params) : List Input :=
  List.replicate (p.nAlgo + 4) .engine ++ [busReadOf p .status]

/-- The bus operations of a statement. -/
def HostStmt.inputs (p : Params) (h : HostStmt) : List Input :=
  match h with
  | .set r v => [busWriteOf p r v]
  | .issue i => [busWriteOf p .cmd (encode i)]
  | .issueWord c => [busWriteOf p .cmd c]
  | .read r => [busReadOf p r]
  | .ack => [busWriteOf p .status 0x6]
  | .wait => waitMoves p
  | .run i => busWriteOf p .cmd (encode i) :: waitMoves p

end Sys2Proof.Machine
end

