-- ==== Sys2Proof/Machine/Step.lean ====
section
/-!
DEFINITION. One step of the machine, and the placing of a command word where the next step takes it.
-/

namespace Sys2Proof.Machine

/-- One step: the next pending move of the environment, or else the engine's (entry 3). An accepted
command at VALIDATE runs as `exec` says, in one atomic change (30_encoding.md R96). -/
def step (s : State) : Host.Outcome State Fault Refusal :=
  match nextMove s with
  | .input i rest => applyInput i { s with inputs := rest }
  | .wait => .next s
  | .run i => exec i s
  | .illegal e => .next (s.fail (illegalCause e))
  | .resume => .next (engineMove s)

/-- The command word of a table row accepted by the engine and nothing else pending: the very next step
runs it (entry 21). -/
def State.withFetchWord (s : State) (nbits w : Nat) : State := placeCommand (tableWord nbits w) s

end Sys2Proof.Machine
end

