-- ==== Sys2Proof/Safety.lean ====
section
/-!
DEFINITION. The terms claims are stated in: the machine invariant, what a legal set of operands is for
each command (the conditions of its section, so that its checks pass and no byte is refused), the bits
and elements of data memory, and what the compressor service will answer.
-/

namespace Sys2Proof.Safety

open Sys2Proof.Machine

/-! ### Reading data memory in the spec's terms -/

/-- Bit p of the BitBuffer at `addr`: bit (p mod 8) of byte addr + floor(p/8), for both widths
(20_memory.md R62). -/
def bufferBit (m : Memory) (addr p : Nat) : Bool := (readByte m (addr + p / 8)).getLsbD (p % 8)

/-- Element i of the array of W-bit words at `addr`: MemRead(addr + i·B, B) (00_scope.md R11). -/
def element (w : Width) (m : Memory) (addr i : Nat) : Nat := memRead m (addr + i * wBytes w) (wBytes w)

/-- The unsigned value of the n bits of a BitBuffer from bit o up (00_scope.md R7, R11). -/
def fieldValue (m : Memory) (addr o : Nat) : Nat → Nat
  | 0 => 0
  | n + 1 => (bufferBit m addr o).toNat + 2 * fieldValue m addr (o + 1) n

/-- The XOR of the values f 0 .. f n: the XOR chain after n steps (42_float_splitter.md R147). -/
def xorPrefix (f : Nat → Nat) : Nat → Nat
  | 0 => f 0
  | n + 1 => xorPrefix f n ^^^ f (n + 1)

/-- m is the least of f 0 .. f (n-1) (41_delta_codec.md R130). -/
def LeastOf (f : Nat → Int) (n : Nat) (m : Int) : Prop := (∃ i, i < n ∧ f i = m) ∧ ∀ i, i < n → m ≤ f i

/-- m is the greatest of f 0 .. f (n-1) (41_delta_codec.md R130). -/
def GreatestOf (f : Nat → Int) (n : Nat) (m : Int) : Prop :=
  (∃ i, i < n ∧ f i = m) ∧ ∀ i, i < n → f i ≤ m

/-- The two memories hold the same byte at every address outside the buffers. -/
def SameOutside (bufs : List Buf) (m m' : Memory) : Prop :=
  ∀ a, (∀ b ∈ bufs, hasByte b a = false) → readByte m' a = readByte m a

/-! ### Legal operands -/

/-- Mapped admits every byte of the buffer (20_memory.md R66). -/
def Admitted (p : Params) (b : Buf) : Prop := ∀ a, b.addr ≤ a → a < b.addr + b.len → mapped p a = true

/-- A register holds a multiple of B (20_memory.md R63, R64). -/
abbrev Aligned (w : Width) (r : Word) : Prop := r.toNat % wBytes w = 0

/-- The buffer is in space (20_memory.md R65). -/
abbrev InSpace (s : State) (b : Buf) : Prop := b.addr + b.len ≤ 2 ^ s.cfg.addrBits

/-- The buffers are disjoint (20_memory.md R67). -/
abbrev Apart (a b : Buf) : Prop := a.len = 0 ∨ b.len = 0 ∨ a.addr + a.len ≤ b.addr ∨ b.addr + b.len ≤ a.addr

/-- 1 ≤ FIELD_WIDTH ≤ W (40_bitstream.md R111 to R114). -/
abbrev WidthOk (w : Width) (s : State) : Prop := 1 ≤ s.fieldWidth.toNat ∧ s.fieldWidth.toNat ≤ wBits w

/-- 1 ≤ COUNT ≤ COUNT_MAX (00_scope.md R6). -/
abbrev CountOk (s : State) : Prop := 1 ≤ s.count.toNat ∧ s.count.toNat ≤ 2 ^ 31 - 1

/-- The first n bytes of the destination. -/
def dstPart (s : State) (n : Nat) : Buf := ⟨s.dstAddr.toNat, n⟩

/-- The destination takes COUNT elements: aligned, in space, large enough, and no byte of them refused
(20_memory.md R63 to R66). -/
def DestinationOk (w : Width) (s : State) : Prop :=
  Aligned w s.dstAddr ∧ InSpace s (dstBuf s) ∧ s.count.toNat * wBytes w ≤ s.dstCap.toNat ∧
    Admitted s.cfg (dstPart s (s.count.toNat * wBytes w))

/-- No byte of the buffers is refused. -/
def AllAdmitted (p : Params) (bufs : List Buf) : Prop := ∀ b ∈ bufs, Admitted p b

/-- The VALIDATE checks of BS.WR pass (40_bitstream.md R111). -/
def BsWrLegal (w : Width) (s : State) : Prop :=
  WidthOk w s ∧ Aligned w s.dstAddr ∧ Aligned w s.dstCap ∧ InSpace s (dstBuf s) ∧
    s.bitOffset.toNat + s.fieldWidth.toNat ≤ 8 * s.dstCap.toNat

/-- The one or two words BS.WR reads and writes (40_bitstream.md R111). -/
def bsWrWords (w : Width) (s : State) : List Buf :=
  fieldWords w s.dstAddr.toNat s.bitOffset.toNat s.fieldWidth.toNat

/-- BS.WR succeeds (40_bitstream.md R111): its checks pass, no byte it touches is refused, and there is
no race. -/
def BsWrReady (w : Width) (s : State) : Prop :=
  BsWrLegal w s ∧ AllAdmitted s.cfg (bsWrWords w s) ∧ isRaced [dstBuf s] s = false

/-- The VALIDATE checks of BS.RD pass (40_bitstream.md R112). -/
def BsRdLegal (w : Width) (s : State) : Prop :=
  WidthOk w s ∧ Aligned w s.srcAddr ∧ Aligned w s.srcLen ∧ InSpace s (srcBuf s) ∧
    s.bitOffset.toNat + s.fieldWidth.toNat ≤ 8 * s.srcLen.toNat

/-- The one or two words BS.RD reads (40_bitstream.md R112). -/
def bsRdWords (w : Width) (s : State) : List Buf :=
  fieldWords w s.srcAddr.toNat s.bitOffset.toNat s.fieldWidth.toNat

/-- BS.RD succeeds (40_bitstream.md R112). -/
def BsRdReady (w : Width) (s : State) : Prop :=
  BsRdLegal w s ∧ AllAdmitted s.cfg (bsRdWords w s) ∧ isRaced [srcBuf s] s = false

/-- The P(COUNT, FIELD_WIDTH) bytes BS.PACK writes (40_bitstream.md R113). -/
def packedPart (w : Width) (s : State) : Buf :=
  dstPart s (packedSize w s.count.toNat s.fieldWidth.toNat)

/-- The COUNT·B bytes BS.UNPACK, DD.DEC and FS.RECOMB write (60_exceptions.md R183). -/
def elementsPart (w : Width) (s : State) : Buf := dstPart s (s.count.toNat * wBytes w)

/-- The VALIDATE checks of BS.PACK pass (40_bitstream.md R113). -/
def BsPackLegal (w : Width) (s : State) : Prop :=
  WidthOk w s ∧ CountOk s ∧ Aligned w s.srcAddr ∧ Aligned w s.dstAddr ∧ InSpace s (srcArray w s) ∧
    InSpace s (dstBuf s) ∧ Apart (srcArray w s) (dstBuf s) ∧
    packedSize w s.count.toNat s.fieldWidth.toNat ≤ s.dstCap.toNat

/-- BS.PACK succeeds (40_bitstream.md R113). -/
def BsPackReady (w : Width) (s : State) : Prop :=
  BsPackLegal w s ∧ Admitted s.cfg (srcArray w s) ∧ Admitted s.cfg (packedPart w s) ∧
    isRaced [srcArray w s, dstBuf s] s = false

/-- The VALIDATE checks of BS.UNPACK pass (40_bitstream.md R114). -/
def BsUnpackLegal (w : Width) (s : State) : Prop :=
  WidthOk w s ∧ CountOk s ∧ Aligned w s.srcAddr ∧ Aligned w s.dstAddr ∧ InSpace s (srcBuf s) ∧
    InSpace s (dstBuf s) ∧ Apart (srcBuf s) (dstBuf s) ∧
    s.srcLen.toNat = packedSize w s.count.toNat s.fieldWidth.toNat ∧
    s.count.toNat * wBytes w ≤ s.dstCap.toNat

/-- BS.UNPACK succeeds (40_bitstream.md R114). -/
def BsUnpackReady (w : Width) (s : State) : Prop :=
  BsUnpackLegal w s ∧ Admitted s.cfg (srcBuf s) ∧ Admitted s.cfg (elementsPart w s) ∧
    isRaced [srcBuf s, dstBuf s] s = false

/-- The VALIDATE checks of DD.ENC pass (41_delta_codec.md R132). Whether the payload fits depends on the
data. -/
def DdEncLegal (w : Width) (s : State) : Prop :=
  CountOk s ∧ Aligned w s.srcAddr ∧ Aligned w s.dstAddr ∧ InSpace s (srcArray w s) ∧
    InSpace s (dstBuf s) ∧ Apart (srcArray w s) (dstBuf s)

/-- The VALIDATE checks of DD.ENC pass, no source byte is refused, and there is no race. -/
def DdEncReady (w : Width) (s : State) : Prop :=
  DdEncLegal w s ∧ Admitted s.cfg (srcArray w s) ∧ isRaced [srcArray w s, dstBuf s] s = false

/-- Among the COUNT source elements, read as signed_W, mn is the least and mx the greatest, and bw is the
least width that holds mx − mn (41_delta_codec.md R130). -/
def DeltaRange (w : Width) (s : State) (mn mx : Int) (bw : Nat) : Prop :=
  LeastOf (fun i => signedOf (wBits w) (element w s.mem s.srcAddr.toNat i)) s.count.toNat mn ∧
    GreatestOf (fun i => signedOf (wBits w) (element w s.mem s.srcAddr.toNat i)) s.count.toNat mx ∧
    mx - mn < 2 ^ bw ∧ ∀ k : Nat, mx - mn < 2 ^ k → bw ≤ k

/-- The VALIDATE checks of DD.DEC pass with header width bw (41_delta_codec.md R133). -/
def DdDecLegal (w : Width) (bw : Nat) (s : State) : Prop :=
  s.bitWidth.toInt = bw ∧ bw ≤ wBits w ∧ CountOk s ∧ s.srcLen.toNat = packedSize w s.count.toNat bw ∧
    Aligned w s.srcAddr ∧ Aligned w s.dstAddr ∧ InSpace s (srcBuf s) ∧ InSpace s (dstBuf s) ∧
    Apart (srcBuf s) (dstBuf s) ∧ s.count.toNat * wBytes w ≤ s.dstCap.toNat

/-- DD.DEC succeeds with header width bw (41_delta_codec.md R133). -/
def DdDecReady (w : Width) (bw : Nat) (s : State) : Prop :=
  DdDecLegal w bw s ∧ Admitted s.cfg (srcBuf s) ∧ Admitted s.cfg (elementsPart w s) ∧
    isRaced [srcBuf s, dstBuf s] s = false

/-- The three channel arrays (42_float_splitter.md R146, R147). -/
def channelArrays (w : Width) (s : State) : List Buf := [ch0Array w s, ch1Array w s, ch2Array w s]

/-- Check 2 of FS.SPLIT passes (42_float_splitter.md R146). -/
abbrev FsSplitAligned (w : Width) (s : State) : Prop :=
  Aligned w s.srcAddr ∧ Aligned w s.ch0Addr ∧ Aligned w s.ch1Addr ∧ Aligned w s.ch2Addr

/-- The range checks of FS.SPLIT pass (42_float_splitter.md R146). -/
abbrev FsSplitInSpace (w : Width) (s : State) : Prop :=
  InSpace s (srcArray w s) ∧ InSpace s (ch0Array w s) ∧ InSpace s (ch1Array w s) ∧
    InSpace s (ch2Array w s)

/-- The overlap checks of FS.SPLIT pass (42_float_splitter.md R146). -/
abbrev FsSplitApart (w : Width) (s : State) : Prop :=
  Apart (srcArray w s) (ch0Array w s) ∧ Apart (srcArray w s) (ch1Array w s) ∧
    Apart (srcArray w s) (ch2Array w s) ∧ Apart (ch0Array w s) (ch1Array w s) ∧
    Apart (ch0Array w s) (ch2Array w s) ∧ Apart (ch1Array w s) (ch2Array w s)

/-- The VALIDATE checks of FS.SPLIT pass (42_float_splitter.md R146). -/
def FsSplitLegal (w : Width) (s : State) : Prop :=
  CountOk s ∧ FsSplitAligned w s ∧ FsSplitInSpace w s ∧ FsSplitApart w s

/-- FS.SPLIT succeeds (42_float_splitter.md R146). -/
def FsSplitReady (w : Width) (s : State) : Prop :=
  FsSplitLegal w s ∧ Admitted s.cfg (srcArray w s) ∧ AllAdmitted s.cfg (channelArrays w s) ∧
    isRaced [srcArray w s, ch0Array w s, ch1Array w s, ch2Array w s] s = false

/-- The alignment checks of FS.RECOMB pass (42_float_splitter.md R147). -/
abbrev FsRecombAligned (w : Width) (s : State) : Prop :=
  Aligned w s.ch0Addr ∧ Aligned w s.ch1Addr ∧ Aligned w s.ch2Addr ∧ Aligned w s.dstAddr

/-- The range checks of FS.RECOMB pass (42_float_splitter.md R147). -/
abbrev FsRecombInSpace (w : Width) (s : State) : Prop :=
  InSpace s (ch0Array w s) ∧ InSpace s (ch1Array w s) ∧ InSpace s (ch2Array w s) ∧
    InSpace s (dstBuf s)

/-- The overlap checks of FS.RECOMB pass (42_float_splitter.md R147). -/
abbrev FsRecombApart (w : Width) (s : State) : Prop :=
  Apart (ch0Array w s) (dstBuf s) ∧ Apart (ch1Array w s) (dstBuf s) ∧ Apart (ch2Array w s) (dstBuf s)

/-- The VALIDATE checks of FS.RECOMB pass (42_float_splitter.md R147). -/
def FsRecombLegal (w : Width) (s : State) : Prop :=
  CountOk s ∧ FsRecombAligned w s ∧ FsRecombInSpace w s ∧ FsRecombApart w s ∧
    s.count.toNat * wBytes w ≤ s.dstCap.toNat

/-- The VALIDATE checks of FS.RECOMB pass and no channel byte is refused (42_float_splitter.md R147). -/
def FsRecombReads (w : Width) (s : State) : Prop :=
  FsRecombLegal w s ∧ AllAdmitted s.cfg (channelArrays w s)

/-- Every channel element fits its field (42_float_splitter.md R147, check 8). -/
def ChannelsFit (w : Width) (s : State) : Prop :=
  ∀ i, i < s.count.toNat → element w s.mem s.ch0Addr.toNat i ≤ 1 ∧
    element w s.mem s.ch1Addr.toNat i < 2 ^ expBits w ∧ element w s.mem s.ch2Addr.toNat i < 2 ^ sigBits w

/-- FS.RECOMB succeeds (42_float_splitter.md R147). -/
def FsRecombReady (w : Width) (s : State) : Prop :=
  FsRecombReads w s ∧ ChannelsFit w s ∧ Admitted s.cfg (elementsPart w s) ∧
    isRaced [ch0Array w s, ch1Array w s, ch2Array w s, dstBuf s] s = false

/-- The VALIDATE checks that CC.SELECT and CC.EXPAND share pass (43_channel_compressor.md R163, R164). -/
def CcBuffersOk (s : State) : Prop :=
  InSpace s (srcBuf s) ∧ InSpace s (dstBuf s) ∧ Apart (srcBuf s) (dstBuf s)

/-- What the compressor service answers to the j-th of the next requests (43_channel_compressor.md R166):
by its functions, unless `State.service` says otherwise; `none`: it withholds the answer. -/
def answerAt (s : State) (j : Nat) (q : Request) : Option Response :=
  match s.service[j]? with
  | none => some (portFunction q)
  | some a => resolve a q

/-- The state after a completion with ERR = code and ERR_SUB = sub that records no address
(30_encoding.md R94; 60_exceptions.md R183 (a)): nothing else changes. `fresh` is the model's own
counter of free values. -/
def failedWith (code : BitVec 8) (sub : BitVec 16) (s : State) : State :=
  { s with err := code, errSub := sub, done := true, engine := Engine.idle, fresh := s.fresh + 1 }

/-- CC.SELECT reaches PICK with the selection best: a non-empty readable input, compressor k answers r k
for k = 1 .. N_ALGO, and best is the least k with the shortest answer (43_channel_compressor.md R161,
R163). -/
def Selects (s : State) (r : Nat → List Byte) (best : Nat) : Prop :=
  s.cfg.wellFormed = true ∧ CcBuffersOk s ∧ s.srcLen.toNat ≠ 0 ∧ Admitted s.cfg (srcBuf s) ∧
    (∀ k, 1 ≤ k → k ≤ s.cfg.nAlgo →
      answerAt s (k - 1) ⟨.compress, k, ccInput s⟩ = some (.ok (r k))) ∧
    1 ≤ best ∧ best ≤ s.cfg.nAlgo ∧
    (∀ k, 1 ≤ k → k ≤ s.cfg.nAlgo → (r best).length ≤ (r k).length) ∧
    ∀ k, 1 ≤ k → k < best → (r best).length < (r k).length

/-- CC.EXPAND reaches SIZE: a tag 1 .. N_ALGO and a non-empty readable input (43_channel_compressor.md
R164). -/
def Expands (s : State) : Prop :=
  s.cfg.wellFormed = true ∧ CcBuffersOk s ∧ s.srcLen.toNat ≠ 0 ∧ Admitted s.cfg (srcBuf s) ∧
    1 ≤ s.algo.toNat ∧ s.algo.toNat ≤ s.cfg.nAlgo

/-- What CC.EXPAND's j-th request is answered (43_channel_compressor.md R164). -/
def expandAnswer (s : State) (j : Nat) : Option Response :=
  answerAt s j ⟨.decompress, s.algo.toNat, ccInput s⟩

/-! ### Endings with an error -/

/-- `a` is the address of a refused byte of one of the buffers (60_exceptions.md R184). -/
def RefusedByte (p : Params) (bufs : List Buf) (a : Word) : Prop :=
  (∃ b ∈ bufs, hasByte b a.toNat = true) ∧ mapped p a.toNat = false

/-- The command ends with BusError(BUS_READ) and the address of a refused byte of the buffers, and
changes nothing else (60_exceptions.md R183 (a), R184). -/
def EndsBusRead (i : Instr) (bufs : List Buf) (s : State) : Prop :=
  ∃ a : Word, exec i s = .next { failedWith 5 0x0040 s with errAddr := a } ∧ RefusedByte s.cfg bufs a

/-- The command ends with the given error raised in WRITE after the service has answered: no result
register is written, and no byte outside the extent changes; what the extent holds is free
(60_exceptions.md R183 (b); entry 5). -/
def EndsInWrite (i : Instr) (code : BitVec 8) (sub : BitVec 16) (addr : Word) (service : List Answer)
    (extent : List Buf) (s : State) : Prop :=
  ∃ (m : Memory) (n : Nat),
    exec i s =
      .next { failedWith code sub s with errAddr := addr, service := service, mem := m, fresh := n } ∧
    SameOutside extent s.mem m

/-- The command ends with BusError(BUS_WRITE) and the address of a refused byte of its extent
(60_exceptions.md R183 (b), R184). -/
def EndsBusWrite (i : Instr) (service : List Answer) (extent : List Buf) (s : State) : Prop :=
  ∃ a : Word, EndsInWrite i 5 0x0041 a service extent s ∧ RefusedByte s.cfg extent a

/-! ### Runs -/

/-- n moves of the engine with nothing in between (30_encoding.md R93). -/
def engineMoves : Nat → State → State
  | 0, s => s
  | n + 1, s => engineMoves n (engineMove s)

/-- The state right after the acceptance of c, as far as the engine is concerned (30_encoding.md R92),
possibly touched by another agent since. -/
def AcceptedNow (c : Word) (s : State) : Prop :=
  s.engine =
    { Engine.idle with mode := .running c .validate, fsm := fsmOnAccept c, raced := s.engine.raced }

/-! ### The machine invariant -/

/-- The engine's part: IDLE means nothing hidden is left (the values of `Engine.idle`, entry 26); RUNNING
means CMD holds the command, the outcome fields are clear, and the command is legal past VALIDATE and
while a request is outstanding (10_state.md R38; 30_encoding.md R92, R93). -/
def EngineOk (s : State) : Prop :=
  match s.engine.mode with
  | .idle => s.engine = Engine.idle
  | .running c ph =>
    s.cmd = c ∧ s.done = false ∧ s.err = 0 ∧ s.errAddr = 0 ∧
      (ph ≠ .validate ∨ s.engine.request ≠ none → ∃ i, decode c = .ok i)

/-- The invariant of the machine: memory canonical, parameters legal (00_scope.md R6), ERR a code of
60_exceptions.md R180, ERR_SUB = 0 exactly when ERR = 0 (R181), ERR_ADDR non-zero only for BusError
(R184), and the engine's part. -/
def Inv (s : State) : Prop :=
  Memory.wf s.mem = true ∧ s.cfg.wellFormed = true ∧ s.err.toNat ≤ 5 ∧ (s.err = 0 ↔ s.errSub = 0) ∧
    (s.errAddr ≠ 0 → s.err = 5) ∧ EngineOk s

end Sys2Proof.Safety
end

