-- ==== Sys2Proof/Certificates/Slice0/Obligations.lean ====
section
/-!
DEFINITION. The statements for the provers. Each docstring names the rules of spec/ a statement rests
on; "MODEL" marks what is the model's own choice, with its log entry. In every statement the fields
`inputs`, `reply`, `service`, `fresh`, `resets` and `engine.raced` are the MODEL's own (entries 3, 12, 9, 18,
27, 7), and so are the values that `Engine.idle` gives the hidden registers (entry 26).
-/

section

open Sys2Proof Sys2Proof.Machine Sys2Proof.Safety

/-! ### Command words (30_encoding.md) -/

/-- R88: the 18 legal words and their commands; every other CMD value is illegal. -/
def Obligations.LegalWordsAreTheOpcodeMap : Prop :=
  ∀ (c : Word) (i : Instr), decode c = .ok i ↔ (c.toNat, i) ∈
    [ (0x001, Instr.bsWr32), (0x101, .bsWr64), (0x002, .bsRd32), (0x102, .bsRd64),
      (0x003, .bsPack32), (0x103, .bsPack64), (0x004, .bsUnpack32), (0x104, .bsUnpack64),
      (0x010, .ddEnc32), (0x110, .ddEnc64), (0x011, .ddDec32), (0x111, .ddDec64),
      (0x020, .fsSplit32), (0x120, .fsSplit64), (0x021, .fsRecomb32), (0x121, .fsRecomb64),
      (0x030, .ccSelect), (0x031, .ccExpand) ]

/-- R85, R88, R90: decoding an encoded command gives it back, and a word that decodes is the encoding of
the command it decodes to. -/
def Obligations.DecodeEncodeAgree : Prop :=
  (∀ i : Instr, decode (encode i) = .ok i) ∧
    ∀ (c : Word) (i : Instr), decode c = .ok i → encode i = c

/-- R89, tests (1) to (3) in their order, for every CMD value. -/
def Obligations.IllegalWordsByTest : Prop :=
  ∀ c : Word,
    (decode c = .error .reservedBits ↔
      c.toNat / 2 ^ 9 ≠ 0 ∨ ((c.toNat % 256 = 0x30 ∨ c.toNat % 256 = 0x31) ∧ c.toNat / 256 % 2 = 1)) ∧
    (decode c = .error .badOpcode ↔
      c.toNat / 2 ^ 9 = 0 ∧
        c.toNat % 256 ∉ [0x01, 0x02, 0x03, 0x04, 0x10, 0x11, 0x20, 0x21, 0x30, 0x31])

/-- Some words of R88, one or more for each unit, decode to their commands; test vectors IC-1 to IC-10
of 95_test_vectors.md are refused with their sub-code. -/
def Obligations.SampleWordsDecode : Prop :=
  decode 0x00000001 = .ok .bsWr32 ∧ decode 0x00000104 = .ok .bsUnpack64 ∧
    decode 0x00000010 = .ok .ddEnc32 ∧ decode 0x00000111 = .ok .ddDec64 ∧
    decode 0x00000120 = .ok .fsSplit64 ∧ decode 0x00000021 = .ok .fsRecomb32 ∧
    decode 0x00000030 = .ok .ccSelect ∧ decode 0x00000031 = .ok .ccExpand ∧
    decode 0x00000130 = .error .reservedBits ∧ decode 0x80000001 = .error .reservedBits ∧
    decode 0x100000001 = .error .reservedBits ∧ decode 0x00000000 = .error .badOpcode ∧
    decode 0x00000105 = .error .badOpcode

/-! ### Acceptance, steps and completion (30_encoding.md R92 to R96) -/

/-- On R92 (30_encoding.md section 7): a CMD write while BUSY = 0 makes the listed updates in one step,
leaves OVERRUN, and drops the interrupt; while BUSY = 1 it is not accepted. `fsmOnAccept` is the selector
FSM's row IDLE (R162). The values of the hidden registers are the MODEL's choice (entry 26), and the pending
moves and the reply its own fields (entries 3 and 12). -/
def Obligations.CmdWriteAcceptance : Prop :=
  ∀ (s : State) (c : Word) (rest : List Input),
    s.inputs = .regWrite (s.cfg.regBase + 0x18) 8 c :: rest →
    (s.busy = false →
      ∃ t, step s = .next t ∧ t.busy = true ∧ t.irq = false ∧
        t = { s with
              inputs := rest, reply := .accepted, cmd := c, done := false, err := 0, errSub := 0
              errAddr := 0
              engine := { Engine.idle with mode := .running c .validate, fsm := fsmOnAccept c } }) ∧
    (s.busy = true →
      step s = .next { s with inputs := rest, reply := .accepted, overrun := true })

/-- R93, R96: with nothing else pending, a step at an accepted legal command runs exactly `exec` of the
decoded command, and nothing around it. -/
def Obligations.StepRunsAcceptedCommand : Prop :=
  ∀ (s : State) (c : Word) (i : Instr),
    s.inputs = [] → s.engine.mode = .running c .validate → decode c = .ok i → step s = exec i s

/-- On R89 (30_encoding.md section 4): an illegal word, by test (1), (2) or (3) in that order, is accepted like
any other and completes at the next step with IllegalCommand (4) and its sub-code; no operand, result
register or memory byte changes. That 'at once' is the next step is the MODEL's reading (entries 3 and 4),
and the values of the hidden registers and the counter of free values are its choice (entries 26 and 18). -/
def Obligations.IllegalCommandCompletes : Prop :=
  ∀ (s : State) (c : Word),
    s.inputs = [.regWrite (s.cfg.regBase + 0x18) 8 c] → s.busy = false →
    ∃ t, step s = .next t ∧ t.busy = true ∧ t.mem = s.mem ∧
      (c.toNat / 2 ^ 9 ≠ 0 → step t = .next (failedWith 4 0x0001 t)) ∧
      (c.toNat / 2 ^ 9 = 0 →
        c.toNat % 256 ∉ [0x01, 0x02, 0x03, 0x04, 0x10, 0x11, 0x20, 0x21, 0x30, 0x31] →
        step t = .next (failedWith 4 0x0002 t)) ∧
      (c.toNat / 2 ^ 9 = 0 → (c.toNat % 256 = 0x30 ∨ c.toNat % 256 = 0x31) → c.toNat / 256 % 2 = 1 →
        step t = .next (failedWith 4 0x0001 t))

/-- R95: every command completes, unless the compressor service withholds an answer. -/
def Obligations.CommandsComplete : Prop :=
  ∀ (i : Instr) (s : State),
    s.cfg.wellFormed = true → (∀ j, j ≤ s.cfg.nAlgo → ∀ q, answerAt s j q ≠ none) →
    ∃ t, exec i s = .next t ∧ t.busy = false ∧ t.done = true

/-- R96: the atomic command equals its phases (and FSM transitions) taken one after another with nothing
in between. A move is one phase or one FSM transition, and N_ALGO + 4 of them are enough for any command: the
MODEL's reading (entries 4 and 16). -/
def Obligations.PhasesAgreeWithAtomicCommand : Prop :=
  ∀ (i : Instr) (s : State),
    s.cfg.wellFormed = true → AcceptedNow (encode i) s →
    exec i s = .next (engineMoves (s.cfg.nAlgo + 4) s)

/-- 60_exceptions.md R185 with R94: whatever a command's outcome, at its completion IRQ = CTRL.IE. -/
def Obligations.CompletionRaisesInterrupt : Prop :=
  ∀ (i : Instr) (s t : State), exec i s = .next t → t.busy = false → t.irq = s.ie

/-! ### The register port (10_state.md) -/

/-- On R31 (10_state.md section 2): only an aligned 8-byte access at REG_BASE + 8·n reaches a register; any
other access that touches the block is answered with an error and changes nothing; a register read changes
nothing. That an access which begins below the block or ends beyond it is refused whole is the MODEL's
reading (entry 11), and the reply field is the MODEL's view of the host bus (entry 12). -/
def Obligations.OnlyAlignedAccessesReachRegisters : Prop :=
  ∀ (s : State) (addr size : Nat) (v : Word) (rest : List Input),
    addr < s.cfg.regBase + 256 → s.cfg.regBase < addr + size →
    (¬(size = 8 ∧ s.cfg.regBase ≤ addr ∧ (addr - s.cfg.regBase) % 8 = 0) →
      (s.inputs = .regRead addr size :: rest ∨ s.inputs = .regWrite addr size v :: rest) →
      step s = .next { s with inputs := rest, reply := .busError }) ∧
    (size = 8 ∧ s.cfg.regBase ≤ addr ∧ (addr - s.cfg.regBase) % 8 = 0 →
      (s.inputs = .regRead addr size :: rest →
        ∃ d, step s = .next { s with inputs := rest, reply := .data d }) ∧
      (s.inputs = .regWrite addr size v :: rest → ∃ t, step s = .next t ∧ t.reply = .accepted))

/-- R21, R32: a read of slot n returns its register, and 0 for the reserved slots 22 to 31. -/
def Obligations.RegisterReadsReturnTheRegister : Prop :=
  ∀ (s : State) (rest : List Input) (n : Nat), n < 32 →
    s.inputs = .regRead (s.cfg.regBase + 8 * n) 8 :: rest →
    step s = .next
      { s with
        inputs := rest
        reply := .data
          ([ 0x42530007, capWord s.cfg, ctrlWord s, s.cmd, statusWord s, s.errAddr, s.srcAddr, s.srcLen,
             s.dstAddr, s.dstCap, s.ch0Addr, s.ch1Addr, s.ch2Addr, s.count, s.bitOffset, s.fieldWidth,
             s.value, s.result, s.minReg, s.bitWidth, s.algo, s.outLen ].getD n 0) }

/-- R22, R23: ID and CAP read their constants, and no host write changes them. -/
def Obligations.IdAndCapAreConstant : Prop :=
  (∀ s : State, readReg .id s = 0x0000000042530007) ∧
    (∀ s : State, s.cfg.wellFormed = true →
      (readReg .cap s).toNat = s.cfg.nAlgo + 2 ^ 8 + 2 ^ 9 + s.cfg.addrBits * 2 ^ 16) ∧
    readReg .cap State.reset = 0x0000000000400302 ∧
    ∀ (s t : State) (addr size : Nat) (v : Word) (rest : List Input),
      s.inputs = .regWrite addr size v :: rest → step s = .next t →
      readReg .id t = readReg .id s ∧ readReg .cap t = readReg .cap s

/-- R24, R26: the bits of STATUS and CTRL; every bit not named reads 0. -/
def Obligations.StatusAndCtrlBits : Prop :=
  ∀ (s : State) (k : Nat),
    (readReg .status s).getLsbD k =
      (if k = 0 then s.busy else if k = 1 then s.done else if k = 2 then s.overrun
        else if 8 ≤ k ∧ k < 16 then s.err.getLsbD (k - 8)
        else if 16 ≤ k ∧ k < 32 then s.errSub.getLsbD (k - 16) else false) ∧
    (readReg .ctrl s).getLsbD k = (decide (k = 0) && s.ie)

/-- R26, 60_exceptions.md R187: a STATUS write, busy or not, clears DONE by bit 1 and OVERRUN by bit 2
and changes nothing else. -/
def Obligations.StatusWriteAcknowledges : Prop :=
  ∀ (s : State) (v : Word) (rest : List Input),
    s.inputs = .regWrite (s.cfg.regBase + 0x20) 8 v :: rest →
    step s = .next
      { s with
        inputs := rest, reply := .accepted
        done := s.done && !v.getLsbD 1, overrun := s.overrun && !v.getLsbD 2 }

/-- R24: a CTRL write with bit 1 = 0, busy or not, sets IE to bit 0 and changes nothing else. -/
def Obligations.CtrlWriteSetsEnable : Prop :=
  ∀ (s : State) (v : Word) (rest : List Input),
    s.inputs = .regWrite (s.cfg.regBase + 0x10) 8 v :: rest → v.getLsbD 1 = false →
    step s = .next { s with inputs := rest, reply := .accepted, ie := v.getLsbD 0 }

/-- R33: while BUSY = 1, a write of any slot but CTRL and STATUS changes nothing but OVERRUN. -/
def Obligations.BusyWritesOnlySetOverrun : Prop :=
  ∀ (s : State) (n : Nat) (v : Word) (rest : List Input),
    n < 32 → n ≠ 2 → n ≠ 4 → s.busy = true →
    s.inputs = .regWrite (s.cfg.regBase + 8 * n) 8 v :: rest →
    step s = .next { s with inputs := rest, reply := .accepted, overrun := true }

/-- R32: while BUSY = 0, a write of ID, CAP, ERR_ADDR, RESULT, OUT_LEN (slots 0, 1, 5, 17, 21) or of a
reserved slot (22 to 31) changes nothing. -/
def Obligations.ReadOnlyWritesAreIgnored : Prop :=
  ∀ (s : State) (n : Nat) (v : Word) (rest : List Input),
    n < 32 → (n = 0 ∨ n = 1 ∨ n = 5 ∨ n = 17 ∨ 21 ≤ n) → s.busy = false →
    s.inputs = .regWrite (s.cfg.regBase + 8 * n) 8 v :: rest →
    step s = .next { s with inputs := rest, reply := .accepted }

/-- R28: while BUSY = 0, a write of an operand register makes it read the value written and changes no
other register, no memory and no engine state. -/
def Obligations.OperandWritesReadBack : Prop :=
  ∀ (s : State) (r : Reg) (v : Word) (rest : List Input),
    r ∈ [Reg.srcAddr, .srcLen, .dstAddr, .dstCap, .ch0Addr, .ch1Addr, .ch2Addr, .count, .bitOffset,
      .fieldWidth, .value, .minReg, .bitWidth, .algo] → s.busy = false →
    s.inputs = .regWrite (s.cfg.regBase + r.offset) 8 v :: rest →
    ∃ t, step s = .next t ∧ readReg r t = v ∧ (∀ q, q ≠ r → readReg q t = readReg q s) ∧
      t.mem = s.mem ∧ t.engine = s.engine ∧ t.inputs = rest

/-! ### Reset (70_reset_and_hazards.md) -/

/-- R200 to R202: the power-on reset and the soft reset set every register to 0, make the engine IDLE
with nothing hidden and IRQ 0; data memory changes only when the running command had entered WRITE, and
then only inside its output extent. The parameters, the service, the pending inputs and the reply are
not BSCORE's (the MODEL's fields, entries 1, 9, 3, 12); the MODEL counts the resets (entry 27); the bytes of
the extent are free (entry 5). -/
def Obligations.ResetEffect : Prop :=
  ∀ (s : State) (v : Word) (rest : List Input), Memory.wf s.mem = true →
    (s.inputs = .powerOn :: rest ∨
      (s.inputs = .regWrite (s.cfg.regBase + 0x10) 8 v :: rest ∧ v.getLsbD 1 = true)) →
    ∃ (m : Memory) (n : Nat) (r : Reply),
      step s = .next
        { State.reset with
          cfg := s.cfg, mem := m, service := s.service, inputs := rest, reply := r, fresh := n
          resets := s.resets + 1 } ∧
      ((∀ c, s.engine.mode ≠ .running c .write ∧ s.engine.mode ≠ .running c .commit) → m = s.mem) ∧
      SameOutside s.engine.extent s.mem m

/-- R201, 93_implementation_defined.md X17: a reset, power-on or soft, abandons the outstanding request, and no
step makes an abandoned request current again; a response to an abandoned request is discarded and changes
no state, even while a later command's request is outstanding, and so is a response while none is. A
response to the outstanding request is taken. That a request is known by the count of resets when it was
sent is the MODEL's choice (entry 27). -/
def Obligations.LateResponseIsDiscarded : Prop :=
  (∀ (s : State) (v : Word) (rest : List Input),
    (s.inputs = .powerOn :: rest ∨
      (s.inputs = .regWrite (s.cfg.regBase + 0x10) 8 v :: rest ∧ v.getLsbD 1 = true)) →
    ∃ t, step s = .next t ∧ t.engine.request = none ∧ s.resets < t.resets) ∧
  (∀ s t : State, step s = .next t → s.resets ≤ t.resets) ∧
  ∀ (s : State) (n : Nat) (a : Answer) (rest : List Input), s.inputs = .answer n a :: rest →
    (n < s.resets → step s = .next { s with inputs := rest }) ∧
    (s.engine.request = none → step s = .next { s with inputs := rest }) ∧
    ∀ r : Response, n = s.resets → a = .gives r →
      ∃ t, step s = .next t ∧ t.engine.request = none

/-! ### What every command leaves alone (10_state.md R28; 60_exceptions.md R180 to R184) -/

/-- 10_state.md R21, R28, R30: a command writes no operand register but MIN and BITWIDTH (DD.ENC) and ALGO
(CC.SELECT), RESULT only by BS.RD, OUT_LEN not by BS.WR and BS.RD; CMD, CTRL.IE and OVERRUN never. The
last line is the MODEL's own fields (entries 1, 3, 12, 27). -/
def Obligations.CommandsWriteOnlyTheirRegisters : Prop :=
  ∀ (i : Instr) (s t : State), exec i s = .next t →
    (t.srcAddr = s.srcAddr ∧ t.srcLen = s.srcLen ∧ t.dstAddr = s.dstAddr ∧ t.dstCap = s.dstCap ∧
      t.ch0Addr = s.ch0Addr ∧ t.ch1Addr = s.ch1Addr ∧ t.ch2Addr = s.ch2Addr ∧ t.count = s.count ∧
      t.bitOffset = s.bitOffset ∧ t.fieldWidth = s.fieldWidth ∧ t.value = s.value ∧ t.cmd = s.cmd ∧
      t.ie = s.ie ∧ t.overrun = s.overrun) ∧
    (i ≠ .ddEnc32 → i ≠ .ddEnc64 → t.minReg = s.minReg ∧ t.bitWidth = s.bitWidth) ∧
    (i ≠ .ccSelect → t.algo = s.algo) ∧
    (i ≠ .bsRd32 → i ≠ .bsRd64 → t.result = s.result) ∧
    (i ∈ [Instr.bsWr32, .bsWr64, .bsRd32, .bsRd64] → t.outLen = s.outLen) ∧
    (t.cfg = s.cfg ∧ t.inputs = s.inputs ∧ t.reply = s.reply ∧ t.resets = s.resets)

/-- 20_memory.md R60, R66: whatever the outcome, race included, a command changes no byte outside the
output buffers it names. -/
def Obligations.CommandsWriteOnlyTheirOutputs : Prop :=
  ∀ (i : Instr) (s t : State), Memory.wf s.mem = true → exec i s = .next t →
    SameOutside (outputsOf i s) s.mem t.mem

/-- 60_exceptions.md R183 (a): an error other than BUS_WRITE (0x0041) and NONDETERMINISTIC (0x03kk)
leaves data memory unchanged; no error writes a result register. -/
def Obligations.ErrorsArePrecise : Prop :=
  ∀ (i : Instr) (s t : State), exec i s = .next t → t.busy = false → t.err ≠ 0 →
    (t.result = s.result ∧ t.minReg = s.minReg ∧ t.bitWidth = s.bitWidth ∧ t.algo = s.algo ∧
      t.outLen = s.outLen) ∧
    (t.errSub ≠ 0x0041 → t.errSub.toNat / 256 ≠ 3 → t.mem = s.mem)

/-- 60_exceptions.md R180, R181: the codes a legal command can complete with. On success ERR_SUB is what it
was, which acceptance has cleared: 30_encoding.md R94 lists no write of it, the MODEL's reading
(entry 13). -/
def Obligations.OutcomeCodesAreTheTables : Prop :=
  ∀ (i : Instr) (s t : State), s.cfg.wellFormed = true → exec i s = .next t → t.busy = false →
    (t.err = 0 ∧ t.errSub = s.errSub) ∨
    (t.err = 1 ∧ 0x10 ≤ t.errSub.toNat ∧ t.errSub.toNat ≤ 0x17) ∨
    (t.err = 2 ∧ 0x20 ≤ t.errSub.toNat ∧ t.errSub.toNat ≤ 0x25) ∨
    (t.err = 3 ∧ ∃ k, 1 ≤ k ∧ k ≤ s.cfg.nAlgo ∧
      (t.errSub.toNat = 0x100 + k ∨ t.errSub.toNat = 0x200 + k ∨ t.errSub.toNat = 0x300 + k)) ∨
    (t.err = 5 ∧ (t.errSub = 0x0040 ∨ t.errSub = 0x0041))

/-- 60_exceptions.md R184: on BusError, ERR_ADDR is a refused byte of a buffer the command names; every
other outcome leaves ERR_ADDR (which acceptance has cleared). -/
def Obligations.BusErrorReportsARefusedByte : Prop :=
  ∀ (i : Instr) (s t : State), s.cfg.wellFormed = true → exec i s = .next t → t.busy = false →
    (t.err = 5 → mapped s.cfg t.errAddr.toNat = false ∧
      ∃ b ∈ namedBy i s, hasByte b t.errAddr.toNat = true) ∧
    (t.err ≠ 5 → t.errAddr = s.errAddr)

/-- 20_memory.md R60: a command's outcome depends on data memory only through the buffers it names. -/
def Obligations.OnlyNamedBuffersMatter : Prop :=
  ∀ (i : Instr) (s t t' : State) (m' : Memory),
    Memory.wf s.mem = true → Memory.wf m' = true →
    (∀ b ∈ namedBy i s, ∀ a, hasByte b a = true → readByte m' a = readByte s.mem a) →
    exec i s = .next t → exec i { s with mem := m' } = .next t' →
    t' = { t with mem := t'.mem } ∧
      ∀ b ∈ namedBy i s, ∀ a, hasByte b a = true → readByte t'.mem a = readByte t.mem a

/-! ### BitStream (40_bitstream.md) -/

/-- R111 (BS.WR.32, BS.WR.64): the field's bits of the BitBuffer take old OR VALUE, its other bits stay;
no byte outside the one or two words changes; no register but STATUS's ERR and DONE. -/
def Obligations.BsWrOrsTheField : Prop :=
  ∀ (w : Width) (s : State), Memory.wf s.mem = true → BsWrReady w s →
    ∃ m, exec (.bsWr w) s =
        .next { s with mem := m, err := 0, done := true, engine := Engine.idle } ∧
      (∀ p, p < 8 * s.dstCap.toNat →
        bufferBit m s.dstAddr.toNat p =
          (bufferBit s.mem s.dstAddr.toNat p ||
            (decide (s.bitOffset.toNat ≤ p) &&
              decide (p < s.bitOffset.toNat + s.fieldWidth.toNat) &&
              s.value.getLsbD (p - s.bitOffset.toNat)))) ∧
      SameOutside (bsWrWords w s) s.mem m

/-- R112 (BS.RD.32, BS.RD.64): RESULT holds the field, zero-extended; memory and every other register
stay. -/
def Obligations.BsRdReadsTheField : Prop :=
  ∀ (w : Width) (s : State), BsRdReady w s →
    ∃ v : Word, exec (.bsRd w) s =
        .next { s with result := v, err := 0, done := true, engine := Engine.idle } ∧
      ∀ k, k < 64 → v.getLsbD k =
        (decide (k < s.fieldWidth.toNat) && bufferBit s.mem s.srcAddr.toNat (s.bitOffset.toNat + k))

/-- R113 (BS.PACK.32, BS.PACK.64): bit i·w + t of the output is bit t of element i, every further bit of
the packed words is 0, OUT_LEN = P(n, w), no byte outside those words changes. -/
def Obligations.BsPackPacksTheFields : Prop :=
  ∀ (w : Width) (s : State), Memory.wf s.mem = true → BsPackReady w s →
    ∃ m, exec (.bsPack w) s =
        .next { s with
          mem := m, outLen := BitVec.ofNat 64 (packedSize w s.count.toNat s.fieldWidth.toNat)
          err := 0, done := true, engine := Engine.idle } ∧
      (∀ i k, i < s.count.toNat → k < s.fieldWidth.toNat →
        bufferBit m s.dstAddr.toNat (i * s.fieldWidth.toNat + k) =
          (element w s.mem s.srcAddr.toNat i).testBit k) ∧
      (∀ p, s.count.toNat * s.fieldWidth.toNat ≤ p →
        p < 8 * packedSize w s.count.toNat s.fieldWidth.toNat →
        bufferBit m s.dstAddr.toNat p = false) ∧
      SameOutside [packedPart w s] s.mem m

/-- R114 (BS.UNPACK.32, BS.UNPACK.64): element i of the output is field i of the packed source,
zero-extended; OUT_LEN = n·B; no byte outside the n elements changes. -/
def Obligations.BsUnpackUnpacksTheFields : Prop :=
  ∀ (w : Width) (s : State), Memory.wf s.mem = true → BsUnpackReady w s →
    ∃ m, exec (.bsUnpack w) s =
        .next { s with
          mem := m, outLen := BitVec.ofNat 64 (s.count.toNat * wBytes w)
          err := 0, done := true, engine := Engine.idle } ∧
      (∀ i, i < s.count.toNat →
        element w m s.dstAddr.toNat i =
          fieldValue s.mem s.srcAddr.toNat (i * s.fieldWidth.toNat) s.fieldWidth.toNat) ∧
      SameOutside [elementsPart w s] s.mem m

/-- R111, R112, checks 1 to 5 of BS.WR and BS.RD: the first that fails is reported, and nothing else
changes. -/
def Obligations.FieldAccessErrorOrder : Prop :=
  ∀ (w : Width) (s : State),
    ((¬WidthOk w s → exec (.bsWr w) s = .next (failedWith 1 0x0010 s)) ∧
      (WidthOk w s → ¬Aligned w s.dstAddr → exec (.bsWr w) s = .next (failedWith 1 0x0012 s)) ∧
      (WidthOk w s → Aligned w s.dstAddr → ¬Aligned w s.dstCap →
        exec (.bsWr w) s = .next (failedWith 1 0x0013 s)) ∧
      (WidthOk w s → Aligned w s.dstAddr → Aligned w s.dstCap → ¬InSpace s (dstBuf s) →
        exec (.bsWr w) s = .next (failedWith 1 0x0014 s)) ∧
      (WidthOk w s → Aligned w s.dstAddr → Aligned w s.dstCap → InSpace s (dstBuf s) →
        8 * s.dstCap.toNat < s.bitOffset.toNat + s.fieldWidth.toNat →
        exec (.bsWr w) s = .next (failedWith 1 0x0016 s))) ∧
    ((¬WidthOk w s → exec (.bsRd w) s = .next (failedWith 1 0x0010 s)) ∧
      (WidthOk w s → ¬Aligned w s.srcAddr → exec (.bsRd w) s = .next (failedWith 1 0x0012 s)) ∧
      (WidthOk w s → Aligned w s.srcAddr → ¬Aligned w s.srcLen →
        exec (.bsRd w) s = .next (failedWith 1 0x0013 s)) ∧
      (WidthOk w s → Aligned w s.srcAddr → Aligned w s.srcLen → ¬InSpace s (srcBuf s) →
        exec (.bsRd w) s = .next (failedWith 1 0x0014 s)) ∧
      (WidthOk w s → Aligned w s.srcAddr → Aligned w s.srcLen → InSpace s (srcBuf s) →
        8 * s.srcLen.toNat < s.bitOffset.toNat + s.fieldWidth.toNat →
        exec (.bsRd w) s = .next (failedWith 1 0x0016 s)))

/-- R113, checks 1 to 8, and R114, checks 1 to 9: the VALIDATE checks of BS.PACK and BS.UNPACK in their
order. A packed length that does not fit the header is CorruptData(LEN_MISMATCH) after OVERLAP, and a small
destination is CAPACITY last. -/
def Obligations.ArrayPackErrorOrder : Prop :=
  ∀ (w : Width) (s : State),
    (¬WidthOk w s → exec (.bsPack w) s = .next (failedWith 1 0x0010 s) ∧
      exec (.bsUnpack w) s = .next (failedWith 1 0x0010 s)) ∧
    (WidthOk w s → ¬CountOk s → exec (.bsPack w) s = .next (failedWith 1 0x0011 s) ∧
      exec (.bsUnpack w) s = .next (failedWith 1 0x0011 s)) ∧
    (WidthOk w s → CountOk s → ¬(Aligned w s.srcAddr ∧ Aligned w s.dstAddr) →
      exec (.bsPack w) s = .next (failedWith 1 0x0012 s) ∧
      exec (.bsUnpack w) s = .next (failedWith 1 0x0012 s)) ∧
    (WidthOk w s → CountOk s → Aligned w s.srcAddr → Aligned w s.dstAddr →
      (¬(InSpace s (srcArray w s) ∧ InSpace s (dstBuf s)) →
        exec (.bsPack w) s = .next (failedWith 1 0x0014 s)) ∧
      (InSpace s (srcArray w s) → InSpace s (dstBuf s) →
        (¬Apart (srcArray w s) (dstBuf s) → exec (.bsPack w) s = .next (failedWith 1 0x0015 s)) ∧
        (Apart (srcArray w s) (dstBuf s) →
          s.dstCap.toNat < packedSize w s.count.toNat s.fieldWidth.toNat →
          exec (.bsPack w) s = .next (failedWith 1 0x0017 s))) ∧
      (¬(InSpace s (srcBuf s) ∧ InSpace s (dstBuf s)) →
        exec (.bsUnpack w) s = .next (failedWith 1 0x0014 s)) ∧
      (InSpace s (srcBuf s) → InSpace s (dstBuf s) →
        (¬Apart (srcBuf s) (dstBuf s) → exec (.bsUnpack w) s = .next (failedWith 1 0x0015 s)) ∧
        (Apart (srcBuf s) (dstBuf s) →
          s.srcLen.toNat ≠ packedSize w s.count.toNat s.fieldWidth.toNat →
          exec (.bsUnpack w) s = .next (failedWith 2 0x0023 s)) ∧
        (Apart (srcBuf s) (dstBuf s) →
          s.srcLen.toNat = packedSize w s.count.toNat s.fieldWidth.toNat →
          s.dstCap.toNat < s.count.toNat * wBytes w →
          exec (.bsUnpack w) s = .next (failedWith 1 0x0017 s))))

/-- 20_memory.md R66, 60_exceptions.md R183 (a), R184, for every command: with the VALIDATE checks passed, a
refused byte among those READ touches ends the command with BusError(BUS_READ) and its address, and changes
nothing else. BS.WR reads the words it will write. -/
def Obligations.RefusedSourceByteIsBusRead : Prop :=
  ∀ s : State, s.cfg.wellFormed = true →
    (∀ w : Width,
      (BsWrLegal w s → ¬AllAdmitted s.cfg (bsWrWords w s) → EndsBusRead (.bsWr w) (bsWrWords w s) s) ∧
      (BsRdLegal w s → ¬AllAdmitted s.cfg (bsRdWords w s) → EndsBusRead (.bsRd w) (bsRdWords w s) s) ∧
      (BsPackLegal w s → ¬Admitted s.cfg (srcArray w s) → EndsBusRead (.bsPack w) [srcArray w s] s) ∧
      (BsUnpackLegal w s → ¬Admitted s.cfg (srcBuf s) → EndsBusRead (.bsUnpack w) [srcBuf s] s) ∧
      (DdEncLegal w s → ¬Admitted s.cfg (srcArray w s) → EndsBusRead (.ddEnc w) [srcArray w s] s) ∧
      (∀ bw : Nat, DdDecLegal w bw s → ¬Admitted s.cfg (srcBuf s) →
        EndsBusRead (.ddDec w) [srcBuf s] s) ∧
      (FsSplitLegal w s → ¬Admitted s.cfg (srcArray w s) → EndsBusRead (.fsSplit w) [srcArray w s] s) ∧
      (FsRecombLegal w s → ¬AllAdmitted s.cfg (channelArrays w s) →
        EndsBusRead (.fsRecomb w) (channelArrays w s) s)) ∧
    (CcBuffersOk s → ¬Admitted s.cfg (srcBuf s) →
      EndsBusRead .ccSelect [srcBuf s] s ∧
      (s.algo.toNat ≤ s.cfg.nAlgo → (s.algo.toNat = 0 → s.srcLen.toNat ≤ s.dstCap.toNat) →
        EndsBusRead .ccExpand [srcBuf s] s))

/-- 60_exceptions.md R183 (b), R184, for every command that writes bytes it has not read: if everything up
to WRITE succeeds and a byte of the output extent is refused, the command ends with BusError(BUS_WRITE) and
that address; no result register is written, and no byte outside the extent changes. (BS.WR meets its
refused byte in READ, BS.RD writes no byte.) What the extent holds is free (entry 5). -/
def Obligations.RefusedOutputByteIsBusWrite : Prop :=
  ∀ s : State, Memory.wf s.mem = true → s.cfg.wellFormed = true →
    (∀ w : Width,
      (BsPackLegal w s → Admitted s.cfg (srcArray w s) → ¬Admitted s.cfg (packedPart w s) →
        EndsBusWrite (.bsPack w) s.service [packedPart w s] s) ∧
      (BsUnpackLegal w s → Admitted s.cfg (srcBuf s) → ¬Admitted s.cfg (elementsPart w s) →
        EndsBusWrite (.bsUnpack w) s.service [elementsPart w s] s) ∧
      (∀ (mn mx : Int) (bw : Nat), DdEncLegal w s → Admitted s.cfg (srcArray w s) →
        DeltaRange w s mn mx bw → packedSize w s.count.toNat bw ≤ s.dstCap.toNat →
        ¬Admitted s.cfg (dstPart s (packedSize w s.count.toNat bw)) →
        EndsBusWrite (.ddEnc w) s.service [dstPart s (packedSize w s.count.toNat bw)] s) ∧
      (∀ bw : Nat, DdDecLegal w bw s → Admitted s.cfg (srcBuf s) → ¬Admitted s.cfg (elementsPart w s) →
        EndsBusWrite (.ddDec w) s.service [elementsPart w s] s) ∧
      (FsSplitLegal w s → Admitted s.cfg (srcArray w s) → ¬AllAdmitted s.cfg (channelArrays w s) →
        EndsBusWrite (.fsSplit w) s.service (channelArrays w s) s) ∧
      (FsRecombReads w s → ChannelsFit w s → ¬Admitted s.cfg (elementsPart w s) →
        EndsBusWrite (.fsRecomb w) s.service [elementsPart w s] s)) ∧
    (∀ (r : Nat → List Byte) (best : Nat) (y : List Byte), Selects s r best →
      answerAt s s.cfg.nAlgo ⟨.compress, best, ccInput s⟩ = some (.ok y) →
      y.length = (r best).length → y.length ≤ s.dstCap.toNat → ¬Admitted s.cfg (dstPart s y.length) →
      EndsBusWrite .ccSelect (s.service.drop (s.cfg.nAlgo + 1)) [dstPart s y.length] s) ∧
    (∀ x y : List Byte, Expands s → expandAnswer s 0 = some (.ok x) → expandAnswer s 1 = some (.ok y) →
      y.length = x.length → y.length ≤ s.dstCap.toNat → ¬Admitted s.cfg (dstPart s y.length) →
      EndsBusWrite .ccExpand (s.service.drop 2) [dstPart s y.length] s) ∧
    (CcBuffersOk s → s.algo.toNat = 0 → s.srcLen.toNat ≤ s.dstCap.toNat → Admitted s.cfg (srcBuf s) →
      ¬Admitted s.cfg (dstPart s s.srcLen.toNat) →
      EndsBusWrite .ccExpand s.service [dstPart s s.srcLen.toNat] s)

/-- R115: the bit round-trip of BS.WR and BS.RD, and the array form of BS.PACK and BS.UNPACK. Without a
race (20_memory.md R74), and BS.UNPACK on a legal destination. -/
def Obligations.BitRoundTrip : Prop :=
  (∀ (w : Width) (s t u : State), Memory.wf s.mem = true →
    isRaced [dstBuf s] s = false → exec (.bsWr w) s = .next t → t.err = 0 →
    s.value.toNat < 2 ^ s.fieldWidth.toNat →
    (∀ p, s.bitOffset.toNat ≤ p → p < s.bitOffset.toNat + s.fieldWidth.toNat →
      bufferBit s.mem s.dstAddr.toNat p = false) →
    u.cfg = t.cfg → u.mem = t.mem → u.srcAddr = s.dstAddr → u.srcLen = s.dstCap →
    u.bitOffset = s.bitOffset → u.fieldWidth = s.fieldWidth → isRaced [srcBuf u] u = false →
    ∃ v, exec (.bsRd w) u = .next v ∧ v.err = 0 ∧ v.result = s.value) ∧
  (∀ (w : Width) (s t u : State), Memory.wf s.mem = true →
    isRaced [srcArray w s, dstBuf s] s = false → exec (.bsPack w) s = .next t → t.err = 0 →
    u.cfg = t.cfg → u.mem = t.mem → u.srcAddr = s.dstAddr → u.srcLen = t.outLen → u.count = s.count →
    u.fieldWidth = s.fieldWidth → DestinationOk w u → Apart (srcBuf u) (dstBuf u) →
    isRaced [srcBuf u, dstBuf u] u = false →
    ∃ v, exec (.bsUnpack w) u = .next v ∧ v.err = 0 ∧
      ∀ i, i < s.count.toNat →
        element w v.mem u.dstAddr.toNat i =
          element w s.mem s.srcAddr.toNat i % 2 ^ s.fieldWidth.toNat)

/-! ### Delta codec (41_delta_codec.md) -/

/-- R130 to R132 (DD.ENC.32, DD.ENC.64): with mn and mx the least and greatest element read as signed_W
and bw the least width that holds mx − mn, MIN is mn sign-extended, BITWIDTH is bw, OUT_LEN is P(n, bw),
field i of the payload is element i − mn, the padding is 0, no byte outside the payload changes. -/
def Obligations.DdEncEncodes : Prop :=
  ∀ (w : Width) (s : State) (mn mx : Int) (bw : Nat),
    Memory.wf s.mem = true → DdEncReady w s →
    DeltaRange w s mn mx bw →
    packedSize w s.count.toNat bw ≤ s.dstCap.toNat →
    Admitted s.cfg (dstPart s (packedSize w s.count.toNat bw)) →
    ∃ m, exec (.ddEnc w) s =
        .next { s with
          mem := m, minReg := BitVec.ofInt 64 mn, bitWidth := BitVec.ofNat 64 bw
          outLen := BitVec.ofNat 64 (packedSize w s.count.toNat bw)
          err := 0, done := true, engine := Engine.idle } ∧
      (∀ i, i < s.count.toNat →
        (fieldValue m s.dstAddr.toNat (i * bw) bw : Int) =
          signedOf (wBits w) (element w s.mem s.srcAddr.toNat i) - mn) ∧
      (∀ p, s.count.toNat * bw ≤ p → p < 8 * packedSize w s.count.toNat bw →
        bufferBit m s.dstAddr.toNat p = false) ∧
      SameOutside [dstPart s (packedSize w s.count.toNat bw)] s.mem m

/-- R132, check 8: a payload larger than DST_CAP is CAPACITY, and nothing else changes. -/
def Obligations.DdEncCapacity : Prop :=
  ∀ (w : Width) (s : State) (mn mx : Int) (bw : Nat),
    DdEncReady w s →
    DeltaRange w s mn mx bw →
    s.dstCap.toNat < packedSize w s.count.toNat bw →
    exec (.ddEnc w) s = .next (failedWith 1 0x0017 s)

/-- R133 (DD.DEC.32, DD.DEC.64): element i of the output is (MIN[W−1:0] + field i) mod 2^W; OUT_LEN =
n·B; MIN, BITWIDTH, COUNT and every byte outside the n elements stay. -/
def Obligations.DdDecDecodes : Prop :=
  ∀ (w : Width) (s : State) (bw : Nat), Memory.wf s.mem = true → DdDecReady w bw s →
    ∃ m, exec (.ddDec w) s =
        .next { s with
          mem := m, outLen := BitVec.ofNat 64 (s.count.toNat * wBytes w)
          err := 0, done := true, engine := Engine.idle } ∧
      (∀ i, i < s.count.toNat →
        element w m s.dstAddr.toNat i =
          (s.minReg.toNat % 2 ^ wBits w + fieldValue s.mem s.srcAddr.toNat (i * bw) bw) %
            2 ^ wBits w) ∧
      SameOutside [elementsPart w s] s.mem m

/-- R133, checks 1 to 10: the VALIDATE checks of DD.DEC in their order, the header checks first. -/
def Obligations.DdDecHeaderErrorOrder : Prop :=
  ∀ (w : Width) (s : State),
    (s.bitWidth.toInt < 0 → exec (.ddDec w) s = .next (failedWith 2 0x0020 s)) ∧
    (wBits w < s.bitWidth.toInt → exec (.ddDec w) s = .next (failedWith 2 0x0021 s)) ∧
    (0 ≤ s.bitWidth.toInt → s.bitWidth.toInt ≤ wBits w →
      (¬CountOk s → exec (.ddDec w) s = .next (failedWith 2 0x0022 s)) ∧
      (CountOk s → s.srcLen.toNat ≠ packedSize w s.count.toNat s.bitWidth.toInt.toNat →
        exec (.ddDec w) s = .next (failedWith 2 0x0023 s)) ∧
      (CountOk s → s.srcLen.toNat = packedSize w s.count.toNat s.bitWidth.toInt.toNat →
        (¬(Aligned w s.srcAddr ∧ Aligned w s.dstAddr) →
          exec (.ddDec w) s = .next (failedWith 1 0x0012 s)) ∧
        (Aligned w s.srcAddr → Aligned w s.dstAddr →
          (¬(InSpace s (srcBuf s) ∧ InSpace s (dstBuf s)) →
            exec (.ddDec w) s = .next (failedWith 1 0x0014 s)) ∧
          (InSpace s (srcBuf s) → InSpace s (dstBuf s) →
            (¬Apart (srcBuf s) (dstBuf s) → exec (.ddDec w) s = .next (failedWith 1 0x0015 s)) ∧
            (Apart (srcBuf s) (dstBuf s) → s.dstCap.toNat < s.count.toNat * wBytes w →
              exec (.ddDec w) s = .next (failedWith 1 0x0017 s))))))

/-- R132, checks 1 to 6: the VALIDATE checks of DD.ENC in their order. -/
def Obligations.DdEncErrorOrder : Prop :=
  ∀ (w : Width) (s : State),
    (¬CountOk s → exec (.ddEnc w) s = .next (failedWith 1 0x0011 s)) ∧
    (CountOk s → ¬(Aligned w s.srcAddr ∧ Aligned w s.dstAddr) →
      exec (.ddEnc w) s = .next (failedWith 1 0x0012 s)) ∧
    (CountOk s → Aligned w s.srcAddr → Aligned w s.dstAddr →
      (¬(InSpace s (srcArray w s) ∧ InSpace s (dstBuf s)) →
        exec (.ddEnc w) s = .next (failedWith 1 0x0014 s)) ∧
      (InSpace s (srcArray w s) → InSpace s (dstBuf s) → ¬Apart (srcArray w s) (dstBuf s) →
        exec (.ddEnc w) s = .next (failedWith 1 0x0015 s)))

/-- R134: a DD.DEC on what a DD.ENC left, with a legal destination, writes the original elements. Without
a race (20_memory.md R74). -/
def Obligations.DeltaRoundTrip : Prop :=
  ∀ (w : Width) (s t u : State), Memory.wf s.mem = true →
    isRaced [srcArray w s, dstBuf s] s = false → exec (.ddEnc w) s = .next t → t.err = 0 →
    u.cfg = t.cfg → u.mem = t.mem → u.srcAddr = s.dstAddr → u.srcLen = t.outLen → u.count = t.count →
    u.minReg = t.minReg → u.bitWidth = t.bitWidth → DestinationOk w u →
    Apart (srcBuf u) (dstBuf u) → isRaced [srcBuf u, dstBuf u] u = false →
    ∃ v, exec (.ddDec w) u = .next v ∧ v.err = 0 ∧
      ∀ i, i < s.count.toNat →
        element w v.mem u.dstAddr.toNat i = element w s.mem s.srcAddr.toNat i

/-! ### Float splitter (42_float_splitter.md) -/

/-- R145, R146 (FS.SPLIT.32, FS.SPLIT.64): CH0 gets the signs, CH1 and CH2 the exponents and
significands XORed with those of the preceding original value; OUT_LEN = n·B; no byte outside the three
arrays changes. -/
def Obligations.FsSplitSplits : Prop :=
  ∀ (w : Width) (s : State), Memory.wf s.mem = true → FsSplitReady w s →
    ∃ m, exec (.fsSplit w) s =
        .next { s with
          mem := m, outLen := BitVec.ofNat 64 (s.count.toNat * wBytes w)
          err := 0, done := true, engine := Engine.idle } ∧
      (∀ i, i < s.count.toNat →
        element w m s.ch0Addr.toNat i =
          element w s.mem s.srcAddr.toNat i / 2 ^ (wBits w - 1) ∧
        element w m s.ch1Addr.toNat i =
          (if i = 0 then element w s.mem s.srcAddr.toNat 0 / 2 ^ sigBits w % 2 ^ expBits w
            else (element w s.mem s.srcAddr.toNat i / 2 ^ sigBits w % 2 ^ expBits w) ^^^
              (element w s.mem s.srcAddr.toNat (i - 1) / 2 ^ sigBits w % 2 ^ expBits w)) ∧
        element w m s.ch2Addr.toNat i =
          (if i = 0 then element w s.mem s.srcAddr.toNat 0 % 2 ^ sigBits w
            else (element w s.mem s.srcAddr.toNat i % 2 ^ sigBits w) ^^^
              (element w s.mem s.srcAddr.toNat (i - 1) % 2 ^ sigBits w))) ∧
      SameOutside (channelArrays w s) s.mem m

/-- R147 (FS.RECOMB.32, FS.RECOMB.64): element i of the output has the sign of channel 0 and the XOR of
the first i + 1 elements of channels 1 and 2 as exponent and significand; OUT_LEN = n·B; no byte outside
the n elements changes. -/
def Obligations.FsRecombRebuilds : Prop :=
  ∀ (w : Width) (s : State), Memory.wf s.mem = true → FsRecombReady w s →
    ∃ m, exec (.fsRecomb w) s =
        .next { s with
          mem := m, outLen := BitVec.ofNat 64 (s.count.toNat * wBytes w)
          err := 0, done := true, engine := Engine.idle } ∧
      (∀ i, i < s.count.toNat →
        element w m s.dstAddr.toNat i =
          element w s.mem s.ch0Addr.toNat i <<< (wBits w - 1) |||
            xorPrefix (element w s.mem s.ch1Addr.toNat) i <<< sigBits w |||
            xorPrefix (element w s.mem s.ch2Addr.toNat) i) ∧
      SameOutside [elementsPart w s] s.mem m

/-- R147, check 8: a channel element wider than its field is CorruptData(FIELD_RANGE), before any
write. -/
def Obligations.FsRecombRejectsWideElements : Prop :=
  ∀ (w : Width) (s : State), FsRecombReads w s → ¬ChannelsFit w s →
    exec (.fsRecomb w) s = .next (failedWith 2 0x0024 s)

/-- R146, checks 1 to 5, and R147, checks 1 to 6: the VALIDATE checks of FS.SPLIT and FS.RECOMB in their
order. A bad count is InvalidArgument(COUNT) on the encode side and CorruptData(HDR_COUNT) on the decode
side (90_conflicts.md C4). -/
def Obligations.SplitterErrorOrder : Prop :=
  ∀ (w : Width) (s : State),
    (¬CountOk s → exec (.fsSplit w) s = .next (failedWith 1 0x0011 s) ∧
      exec (.fsRecomb w) s = .next (failedWith 2 0x0022 s)) ∧
    (CountOk s →
      (¬FsSplitAligned w s → exec (.fsSplit w) s = .next (failedWith 1 0x0012 s)) ∧
      (FsSplitAligned w s → ¬FsSplitInSpace w s → exec (.fsSplit w) s = .next (failedWith 1 0x0014 s)) ∧
      (FsSplitAligned w s → FsSplitInSpace w s → ¬FsSplitApart w s →
        exec (.fsSplit w) s = .next (failedWith 1 0x0015 s)) ∧
      (¬FsRecombAligned w s → exec (.fsRecomb w) s = .next (failedWith 1 0x0012 s)) ∧
      (FsRecombAligned w s → ¬FsRecombInSpace w s →
        exec (.fsRecomb w) s = .next (failedWith 1 0x0014 s)) ∧
      (FsRecombAligned w s → FsRecombInSpace w s →
        (¬FsRecombApart w s → exec (.fsRecomb w) s = .next (failedWith 1 0x0015 s)) ∧
        (FsRecombApart w s → s.dstCap.toNat < s.count.toNat * wBytes w →
          exec (.fsRecomb w) s = .next (failedWith 1 0x0017 s))))

/-- R148, first two sentences: FS.RECOMB of FS.SPLIT's channels, with a legal destination, writes the
original words. Without a race (20_memory.md R74). -/
def Obligations.FloatRoundTrip : Prop :=
  ∀ (w : Width) (s t u : State), Memory.wf s.mem = true →
    isRaced [srcArray w s, ch0Array w s, ch1Array w s, ch2Array w s] s = false →
    exec (.fsSplit w) s = .next t → t.err = 0 →
    u.cfg = t.cfg → u.mem = t.mem → u.ch0Addr = s.ch0Addr → u.ch1Addr = s.ch1Addr →
    u.ch2Addr = s.ch2Addr → u.count = s.count → DestinationOk w u →
    Apart (ch0Array w u) (dstBuf u) → Apart (ch1Array w u) (dstBuf u) →
    Apart (ch2Array w u) (dstBuf u) →
    isRaced [ch0Array w u, ch1Array w u, ch2Array w u, dstBuf u] u = false →
    ∃ v, exec (.fsRecomb w) u = .next v ∧ v.err = 0 ∧
      ∀ i, i < s.count.toNat →
        element w v.mem u.dstAddr.toNat i = element w s.mem s.srcAddr.toNat i

/-! ### Channel compressor (43_channel_compressor.md) -/

/-- R161, R163, R167 (CC.SELECT, non-empty input): if compressor k answers r k (k = 1 .. N_ALGO) and
`best` is the least k with the shortest answer, then ALGO = best, OUT_LEN is its length, and DST holds the
bytes y that the repeated request answers, of that length (43_channel_compressor.md R166: y = r best for
a deterministic service). -/
def Obligations.CcSelectPicksTheShortest : Prop :=
  ∀ (s : State) (r : Nat → List Byte) (best : Nat) (y : List Byte), Selects s r best →
    answerAt s s.cfg.nAlgo ⟨.compress, best, ccInput s⟩ = some (.ok y) →
    y.length = (r best).length → y.length ≤ s.dstCap.toNat → Admitted s.cfg (dstPart s y.length) →
    isRaced [srcBuf s, dstBuf s] s = false →
    exec .ccSelect s =
      .next { s with
        mem := writeBytes s.mem s.dstAddr.toNat y, algo := BitVec.ofNat 64 best
        outLen := BitVec.ofNat 64 y.length, service := s.service.drop (s.cfg.nAlgo + 1)
        err := 0, done := true, engine := Engine.idle }

/-- R161, R163 (CC.SELECT, empty input): tag NONE, no byte, no request. -/
def Obligations.CcSelectOfEmptyInput : Prop :=
  ∀ s : State, CcBuffersOk s → s.srcLen.toNat = 0 → isRaced [srcBuf s, dstBuf s] s = false →
    exec .ccSelect s =
      .next { s with algo := 0, outLen := 0, err := 0, done := true, engine := Engine.idle }

/-- R163, checks 5 and 6, and R164, checks 7 and 8: the first compressor that answers `fail` ends CC.SELECT
with COMPRESS_FAIL(k), and no later one is asked; a decompressor that answers `fail` ends CC.EXPAND with
DECOMPRESS_FAIL(tag); an answer longer than DST_CAP (the shortest one, for CC.SELECT) is CAPACITY, and the
request is not repeated. Nothing else changes. -/
def Obligations.CcSelectReportsTheFirstFailure : Prop :=
  (∀ (s : State) (r : Nat → List Byte) (k : Nat),
    s.cfg.wellFormed = true → CcBuffersOk s → s.srcLen.toNat ≠ 0 → Admitted s.cfg (srcBuf s) →
    1 ≤ k → k ≤ s.cfg.nAlgo →
    (∀ j, 1 ≤ j → j < k → answerAt s (j - 1) ⟨.compress, j, ccInput s⟩ = some (.ok (r j))) →
    answerAt s (k - 1) ⟨.compress, k, ccInput s⟩ = some .fail →
    exec .ccSelect s =
      .next { failedWith 3 (BitVec.ofNat 16 (0x0100 + k)) s with service := s.service.drop k }) ∧
  (∀ (s : State) (r : Nat → List Byte) (best : Nat), Selects s r best →
    s.dstCap.toNat < (r best).length →
    exec .ccSelect s =
      .next { failedWith 1 0x0017 s with service := s.service.drop s.cfg.nAlgo }) ∧
  ∀ s : State, Expands s →
    (expandAnswer s 0 = some .fail →
      exec .ccExpand s =
        .next { failedWith 3 (BitVec.ofNat 16 (0x0200 + s.algo.toNat)) s with
          service := s.service.drop 1 }) ∧
    ∀ x : List Byte, expandAnswer s 0 = some (.ok x) → s.dstCap.toNat < x.length →
      exec .ccExpand s = .next { failedWith 1 0x0017 s with service := s.service.drop 1 }

/-- R162; R163, check 7; R164, check 9; 60_exceptions.md R183 (b): if the repeated request fails or answers
another length, CC.SELECT ends with NONDETERMINISTIC(best) and CC.EXPAND with NONDETERMINISTIC(tag); no
result register is written, and no byte outside the output extent changes. -/
def Obligations.CcSelectDetectsNondeterminism : Prop :=
  (∀ (s : State) (r : Nat → List Byte) (best : Nat) (z : Response), Memory.wf s.mem = true →
    Selects s r best → (r best).length ≤ s.dstCap.toNat →
    answerAt s s.cfg.nAlgo ⟨.compress, best, ccInput s⟩ = some z →
    (∀ y, z = .ok y → y.length ≠ (r best).length) →
    EndsInWrite .ccSelect 3 (BitVec.ofNat 16 (0x0300 + best)) s.errAddr
      (s.service.drop (s.cfg.nAlgo + 1)) [dstPart s (r best).length] s) ∧
  ∀ (s : State) (x : List Byte) (z : Response), Memory.wf s.mem = true → Expands s →
    expandAnswer s 0 = some (.ok x) → x.length ≤ s.dstCap.toNat → expandAnswer s 1 = some z →
    (∀ y, z = .ok y → y.length ≠ x.length) →
    EndsInWrite .ccExpand 3 (BitVec.ofNat 16 (0x0300 + s.algo.toNat)) s.errAddr (s.service.drop 2)
      [dstPart s x.length] s

/-- R164 (CC.EXPAND, tag 1 .. N_ALGO, non-empty input): DST holds what the repeated request answers, of the
length the first answer had; OUT_LEN is that length; ALGO stays. -/
def Obligations.CcExpandDecompresses : Prop :=
  ∀ (s : State) (x y : List Byte), Expands s →
    expandAnswer s 0 = some (.ok x) → expandAnswer s 1 = some (.ok y) →
    y.length = x.length → y.length ≤ s.dstCap.toNat → Admitted s.cfg (dstPart s y.length) →
    isRaced [srcBuf s, dstBuf s] s = false →
    exec .ccExpand s =
      .next { s with
        mem := writeBytes s.mem s.dstAddr.toNat y, outLen := BitVec.ofNat 64 y.length
        service := s.service.drop 2, err := 0, done := true, engine := Engine.idle }

/-- R164 (CC.EXPAND, tag 0): the SRC bytes are copied unchanged, none for SRC_LEN = 0; no request. -/
def Obligations.CcExpandCopiesUnderNone : Prop :=
  ∀ s : State,
    CcBuffersOk s → s.algo.toNat = 0 → s.srcLen.toNat ≤ s.dstCap.toNat →
    Admitted s.cfg (srcBuf s) → Admitted s.cfg (dstPart s s.srcLen.toNat) →
    isRaced [srcBuf s, dstBuf s] s = false →
    exec .ccExpand s =
      .next { s with
        mem := writeBytes s.mem s.dstAddr.toNat (readBytes s.mem s.srcAddr.toNat s.srcLen.toNat)
        outLen := s.srcLen, err := 0, done := true, engine := Engine.idle }

/-- R164 (CC.EXPAND, tag 1 .. N_ALGO, empty input): nothing is written and no request is sent. -/
def Obligations.CcExpandOfEmptyInput : Prop :=
  ∀ s : State,
    CcBuffersOk s → s.srcLen.toNat = 0 → 1 ≤ s.algo.toNat → s.algo.toNat ≤ s.cfg.nAlgo →
    isRaced [srcBuf s, dstBuf s] s = false →
    exec .ccExpand s =
      .next { s with outLen := 0, err := 0, done := true, engine := Engine.idle }

/-- R163, R164: the VALIDATE checks of CC.SELECT and CC.EXPAND: an unrecognised tag first, then buffers out
of space, then overlap, then (tag 0) capacity. -/
def Obligations.SelectorErrorOrder : Prop :=
  ∀ s : State,
    (¬(InSpace s (srcBuf s) ∧ InSpace s (dstBuf s)) →
      exec .ccSelect s = .next (failedWith 1 0x0014 s)) ∧
    (InSpace s (srcBuf s) → InSpace s (dstBuf s) → ¬Apart (srcBuf s) (dstBuf s) →
      exec .ccSelect s = .next (failedWith 1 0x0015 s)) ∧
    (s.cfg.nAlgo < s.algo.toNat → exec .ccExpand s = .next (failedWith 2 0x0025 s)) ∧
    (s.algo.toNat ≤ s.cfg.nAlgo →
      (¬(InSpace s (srcBuf s) ∧ InSpace s (dstBuf s)) →
        exec .ccExpand s = .next (failedWith 1 0x0014 s)) ∧
      (InSpace s (srcBuf s) → InSpace s (dstBuf s) →
        (¬Apart (srcBuf s) (dstBuf s) → exec .ccExpand s = .next (failedWith 1 0x0015 s)) ∧
        (Apart (srcBuf s) (dstBuf s) → s.algo.toNat = 0 → s.dstCap.toNat < s.srcLen.toNat →
          exec .ccExpand s = .next (failedWith 1 0x0017 s))))

/-- R166; 30_encoding.md R95: if compressor k withholds its answer, CC.SELECT stays RUNNING with the request
outstanding and changes no register and no memory, and further steps leave it so. -/
def Obligations.WithheldAnswerLeavesRunning : Prop :=
  ∀ (s : State) (r : Nat → List Byte) (k : Nat),
    s.cfg.wellFormed = true → CcBuffersOk s → s.srcLen.toNat ≠ 0 → Admitted s.cfg (srcBuf s) →
    s.inputs = [] → 1 ≤ k → k ≤ s.cfg.nAlgo →
    (∀ j, 1 ≤ j → j < k → answerAt s (j - 1) ⟨.compress, j, ccInput s⟩ = some (.ok (r j))) →
    answerAt s (k - 1) ⟨.compress, k, ccInput s⟩ = none →
    ∃ t, exec .ccSelect s = .next t ∧ t.busy = true ∧
      t.engine.request = some ⟨.compress, k, ccInput s⟩ ∧
      t = { s with engine := t.engine, service := s.service.drop k } ∧
      (s.engine.mode = .running (encode .ccSelect) .validate → step t = .next t)

/-- R165 but for one corner (entry 25): CC.EXPAND on what CC.SELECT left writes the input back, if the
input is empty or the compressed bytes are not and the selected decompressor answers the input. (For a
compressor that answers ok with zero bytes to a non-empty input, R163, CC.EXPAND sends no request,
R164.) Without a race. -/
def Obligations.CompressorRoundTrip : Prop :=
  ∀ s t u : State, Memory.wf s.mem = true → s.cfg.wellFormed = true →
    isRaced [srcBuf s, dstBuf s] s = false → exec .ccSelect s = .next t → t.busy = false → t.err = 0 →
    u.cfg = t.cfg → u.mem = t.mem → u.srcAddr = s.dstAddr → u.srcLen = t.outLen → u.algo = t.algo →
    CcBuffersOk u → s.srcLen.toNat ≤ u.dstCap.toNat → Admitted u.cfg (dstPart u s.srcLen.toNat) →
    isRaced [srcBuf u, dstBuf u] u = false →
    (ccInput s ≠ [] → t.outLen ≠ 0 ∧
      answerAt u 0 ⟨.decompress, t.algo.toNat, ccInput u⟩ = some (.ok (ccInput s)) ∧
      answerAt u 1 ⟨.decompress, t.algo.toNat, ccInput u⟩ = some (.ok (ccInput s))) →
    ∃ v, exec .ccExpand u = .next v ∧ v.err = 0 ∧ v.outLen = s.srcLen ∧
      readBytes v.mem u.dstAddr.toNat s.srcLen.toNat = ccInput s

/-! ### Other agents (20_memory.md R74) -/

/-- R73, R74: another agent's write of data memory stores its bytes; it makes the running command's outcome
open exactly when it touches a buffer that command names (the race flag is the MODEL's, entry 7). A read
answers the bytes of memory, and a free value for each byte of an output buffer of the running command
(entry 5), and changes nothing but the reply and the counter of free values. That Mapped does not bind the
other agents, so that such a write takes effect on refused bytes too, and that an access outside the data
space stops the machine with noSuchAddress, is the MODEL's choice (entry 10); no rule of the spec says
it. -/
def Obligations.AgentWriteStoresAndRaces : Prop :=
  (∀ (s : State) (addr : Nat) (bs : List Byte) (rest : List Input), Memory.wf s.mem = true →
    s.inputs = .memWrite addr bs :: rest → addr + bs.length ≤ 2 ^ s.cfg.addrBits →
    ∃ t, step s = .next t ∧
      t = { s with
            inputs := rest, mem := t.mem, reply := .accepted
            engine := { s.engine with raced := t.engine.raced } } ∧
      (∀ x, readByte t.mem x =
        if addr ≤ x ∧ x < addr + bs.length then bs.getD (x - addr) 0 else readByte s.mem x) ∧
      (t.engine.raced = true ↔
        s.engine.raced = true ∨ ∃ b ∈ namedNow s, ¬Apart b ⟨addr, bs.length⟩)) ∧
  (∀ (s : State) (addr len : Nat) (rest : List Input),
    s.inputs = .memRead addr len :: rest → addr + len ≤ 2 ^ s.cfg.addrBits →
    ∃ (bs : List Byte) (n : Nat),
      step s = .next { s with inputs := rest, reply := .bytes bs, fresh := n } ∧ bs.length = len ∧
      ∀ k, k < len → (∀ b ∈ outputsNow s, hasByte b (addr + k) = false) →
        bs.getD k 0 = readByte s.mem (addr + k)) ∧
  ∀ (s : State) (addr len : Nat) (bs : List Byte) (rest : List Input),
    (s.inputs = .memRead addr len :: rest → 2 ^ s.cfg.addrBits < addr + len →
      step s = .fault .noSuchAddress) ∧
    (s.inputs = .memWrite addr bs :: rest → 2 ^ s.cfg.addrBits < addr + bs.length →
      step s = .fault .noSuchAddress)

/-! ### The invariant -/

/-- Every step keeps the invariant: memory canonical (the MODEL's form, entry 2), parameters legal, ERR at most 5
and 0 exactly when ERR_SUB is (60_exceptions.md R180, R181), ERR_ADDR non-zero only for BusError
(10_state.md R27), IDLE with nothing hidden left (in the MODEL's values of entry 26), RUNNING with CMD the command and a clear
record (10_state.md R38; 30_encoding.md R92). -/
def Obligations.StepKeepsTheInvariant : Prop :=
  ∀ s t : State, Inv s → step s = .next t → Inv t

/-- The reset state meets the invariant. The parameters of the reset state are the spec's defaults and the
MODEL's choices of entry 1. -/
def Obligations.ResetMeetsTheInvariant : Prop := Inv State.reset

end
end

