-- ==== Sys2Proof/Laws/Memory.lean ====
section
/-!
SUPPORT. What the memory operations do: read after write, the canonical form is kept, and what a store
leaves unchanged.
-/

namespace Sys2Proof.Laws

open Sys2Proof.Machine

/-! ### One byte -/

theorem wf_tail {c : Host.Cell} {m : Memory} (h : Memory.wf (c :: m) = true) :
    Memory.wf m = true := by
  obtain ⟨x, b⟩ := c
  simp only [Memory.wf, Bool.and_eq_true] at h
  exact h.2

/-- In a canonical memory every later entry lies at a higher address. -/
theorem wf_lt {x : Nat} {b : Byte} {m : Memory} (h : Memory.wf ((x, b) :: m) = true) :
    ∀ c ∈ m, x < c.1 := by
  simp only [Memory.wf, Bool.and_eq_true, List.all_eq_true, decide_eq_true_eq] at h
  exact h.1.2

/-- An address below every entry is unlisted. -/
theorem readByte_of_lt {m : Memory} {a : Nat} (h : ∀ c ∈ m, a < c.1) :
    readByte m a = unlistedByte := by
  induction m with
  | nil => rfl
  | cons c m ih =>
    obtain ⟨x, b⟩ := c
    have hx : a < x := h (x, b) (by simp)
    have : x ≠ a := by omega
    simp only [readByte, this, if_false]
    exact ih (fun c hc => h c (by simp [hc]))

/-- Every entry of the result of a store is an old entry or the stored one. -/
theorem mem_writeByte {m : Memory} {a : Nat} {b : Byte} {c : Host.Cell}
    (h : c ∈ writeByte m a b) : c ∈ m ∨ c = (a, b) := by
  induction m with
  | nil =>
    simp only [writeByte] at h
    split at h
    · simp at h
    · right; simpa using h
  | cons d m ih =>
    obtain ⟨x, e⟩ := d
    simp only [writeByte] at h
    split at h
    · split at h
      · exact .inl h
      · rcases List.mem_cons.mp h with h | h
        · exact .inr h
        · exact .inl h
    · split at h
      · split at h
        · exact .inl (List.mem_cons_of_mem _ h)
        · rcases List.mem_cons.mp h with h | h
          · exact .inr h
          · exact .inl (List.mem_cons_of_mem _ h)
      · rcases List.mem_cons.mp h with h | h
        · exact .inl (by simp [h])
        · rcases ih h with h | h
          · exact .inl (List.mem_cons_of_mem _ h)
          · exact .inr h

/-- A store keeps the canonical form. -/
theorem writeByte_wf {m : Memory} (a : Nat) (b : Byte) (h : Memory.wf m = true) :
    Memory.wf (writeByte m a b) = true := by
  induction m with
  | nil => simp only [writeByte]; split <;> simp_all [Memory.wf]
  | cons d m ih =>
    obtain ⟨x, e⟩ := d
    have ht := wf_tail h
    have hl := wf_lt h
    have he : e ≠ unlistedByte := by
      simp only [Memory.wf, Bool.and_eq_true, decide_eq_true_eq] at h
      exact h.1.1
    simp only [writeByte]
    split
    · rename_i hax
      split
      · exact h
      · rename_i hb
        rw [Memory.wf]
        simp only [Bool.and_eq_true, decide_eq_true_eq, List.all_eq_true, List.mem_cons]
        refine ⟨⟨hb, ?_⟩, h⟩
        rintro c (rfl | hc)
        · exact hax
        · exact lt_trans hax (hl c hc)
    · split
      · split
        · exact ht
        · rename_i hxa hb
          subst hxa
          rw [Memory.wf]
          simp only [Bool.and_eq_true, decide_eq_true_eq, List.all_eq_true]
          exact ⟨⟨hb, hl⟩, ht⟩
      · rename_i h1 h2
        rw [Memory.wf]
        simp only [Bool.and_eq_true, decide_eq_true_eq, List.all_eq_true]
        refine ⟨⟨he, fun c hc => ?_⟩, ih ht⟩
        rcases mem_writeByte hc with hc | rfl
        · exact hl c hc
        · simp only; omega

/-- Read after write: the stored byte at its address, every other byte as before. -/
theorem readByte_writeByte {m : Memory} (h : Memory.wf m = true) (a : Nat) (b : Byte) (x : Nat) :
    readByte (writeByte m a b) x = if x = a then b else readByte m x := by
  induction m with
  | nil =>
    simp only [writeByte]
    split
    · rename_i hb; simp [readByte, hb]
    · by_cases hx : x = a
      · subst hx; simp [readByte]
      · simp only [readByte, Ne.symm hx, if_false, hx]
  | cons d m ih =>
    obtain ⟨y, e⟩ := d
    have ht := wf_tail h
    have hl := wf_lt h
    simp only [writeByte]
    split
    · rename_i hay
      split
      · rename_i hb
        by_cases hx : x = a
        · subst hx
          rw [if_pos rfl, hb]
          refine readByte_of_lt ?_
          intro c hc
          rcases List.mem_cons.mp hc with rfl | hc
          · exact hay
          · exact lt_trans hay (hl c hc)
        · simp [hx]
      · by_cases hx : x = a
        · subst hx; simp [readByte]
        · simp only [readByte, Ne.symm hx, if_false, hx]
    · split
      · rename_i hya
        subst hya
        split
        · rename_i hb
          by_cases hx : x = a
          · subst hx
            rw [if_pos rfl, hb]
            exact readByte_of_lt hl
          · simp only [readByte, Ne.symm hx, if_false, hx]
        · by_cases hx : x = a
          · subst hx; simp [readByte]
          · simp only [readByte, Ne.symm hx, if_false, hx]
      · rename_i h1 h2
        simp only [readByte]
        by_cases hyx : y = x
        · subst hyx
          have : y ≠ a := fun h => h2 h.symm
          simp [this]
        · simp only [hyx, if_false]
          exact ih ht

/-! ### Byte strings and pieces -/

theorem writeBytes_wf {m : Memory} (a : Nat) (bs : List Byte) (h : Memory.wf m = true) :
    Memory.wf (writeBytes m a bs) = true := by
  induction bs generalizing m a with
  | nil => exact h
  | cons b bs ih => exact ih _ (writeByte_wf a b h)

/-- Reading after storing a byte string: its bytes inside, the old bytes outside. -/
theorem readByte_writeBytes {m : Memory} (h : Memory.wf m = true) (a : Nat) (bs : List Byte)
    (x : Nat) :
    readByte (writeBytes m a bs) x =
      if a ≤ x ∧ x < a + bs.length then bs.getD (x - a) 0 else readByte m x := by
  induction bs generalizing m a with
  | nil =>
    have : ¬(a ≤ x ∧ x < a + ([] : List Byte).length) := by simp
    rw [if_neg this]; rfl
  | cons b bs ih =>
    rw [writeBytes, ih (writeByte_wf a b h), readByte_writeByte h]
    simp only [List.length_cons]
    by_cases hx : x = a
    · subst hx
      rw [if_neg (by omega), if_pos rfl, if_pos (by omega)]
      simp
    · by_cases hin : a ≤ x ∧ x < a + (bs.length + 1)
      · rw [if_pos (by omega), if_pos hin]
        have : x - a = (x - (a + 1)) + 1 := by omega
        rw [this, List.getD_cons_succ]
      · rw [if_neg (by omega), if_neg hx, if_neg hin]

theorem storePieces_wf {m : Memory} (ps : List Piece) (h : Memory.wf m = true) :
    Memory.wf (storePieces m ps) = true := by
  induction ps generalizing m with
  | nil => exact h
  | cons p ps ih => exact ih (writeBytes_wf p.addr p.bytes h)

/-- Storing pieces leaves every byte outside them as it was. -/
theorem readByte_storePieces_of_outside {m : Memory} (h : Memory.wf m = true) (ps : List Piece)
    (x : Nat) (hx : ∀ p ∈ ps, ¬(p.addr ≤ x ∧ x < p.addr + p.bytes.length)) :
    readByte (storePieces m ps) x = readByte m x := by
  induction ps generalizing m with
  | nil => rfl
  | cons p ps ih =>
    rw [storePieces, ih (writeBytes_wf _ _ h) (fun q hq => hx q (by simp [hq])),
      readByte_writeBytes h, if_neg (hx p (by simp))]

theorem length_readBytes (m : Memory) (a n : Nat) : (readBytes m a n).length = n := by
  induction n generalizing a with
  | zero => rfl
  | succ n ih => simp [readBytes, ih]

theorem getD_readBytes (m : Memory) (a n i : Nat) (h : i < n) (d : Byte) :
    (readBytes m a n).getD i d = readByte m (a + i) := by
  induction n generalizing a i with
  | zero => omega
  | succ n ih =>
    cases i with
    | zero => simp [readBytes]
    | succ i =>
      rw [readBytes, List.getD_cons_succ, ih (a + 1) i (by omega)]
      congr 1; omega

theorem length_leBytes (n v : Nat) : (leBytes n v).length = n := by
  induction n generalizing v with
  | zero => rfl
  | succ n ih => simp [leBytes, ih]

theorem length_wordsBytes (B : Nat) (vs : List Nat) : (wordsBytes B vs).length = vs.length * B := by
  induction vs with
  | nil => simp [wordsBytes]
  | cons v vs ih => simp [wordsBytes, length_leBytes, ih, Nat.add_mul, Nat.add_comm]

theorem length_readWords (m : Memory) (B a n : Nat) : (readWords m B a n).length = n := by
  induction n generalizing a with
  | zero => rfl
  | succ n ih => simp [readWords, ih]

/-- Element i of an array read. -/
theorem getD_readWords (m : Memory) (B a n i : Nat) (h : i < n) (d : Nat) :
    (readWords m B a n).getD i d = memRead m (a + i * B) B := by
  induction n generalizing a i with
  | zero => omega
  | succ n ih =>
    cases i with
    | zero => simp [readWords]
    | succ i =>
      rw [readWords, List.getD_cons_succ, ih (a + B) i (by omega)]
      congr 1; ring

/-- A little-endian value fits its bytes. -/
theorem leValue_lt (bs : List Byte) : leValue bs < 256 ^ bs.length := by
  induction bs with
  | nil => simp [leValue]
  | cons b bs ih =>
    have := b.isLt
    simp only [leValue, List.length_cons, pow_succ]
    omega

theorem memRead_lt (m : Memory) (a n : Nat) : memRead m a n < 256 ^ n := by
  have := leValue_lt (readBytes m a n)
  rwa [length_readBytes] at this

/-- Encoding and reading back a value that fits (20_memory.md R61). -/
theorem leValue_leBytes (n v : Nat) (h : v < 256 ^ n) : leValue (leBytes n v) = v := by
  induction n generalizing v with
  | zero => simp at h; simp [leBytes, leValue, h]
  | succ n ih =>
    have hv : v / 256 < 256 ^ n := by rw [pow_succ] at h; omega
    simp only [leBytes, leValue, ih _ hv, BitVec.toNat_ofNat]
    omega

/-! ### Open bytes -/

theorem scribbleFrom_wf (f : Nat → Byte) {m : Memory} (a n : Nat) (h : Memory.wf m = true) :
    Memory.wf (scribbleFrom f m a n) = true := by
  induction n generalizing m a with
  | zero => exact h
  | succ n ih => exact ih _ (writeByte_wf _ _ h)

theorem scribble_wf (f : Nat → Byte) {m : Memory} (x : List Buf) (h : Memory.wf m = true) :
    Memory.wf (scribble f m x) = true := by
  induction x generalizing m with
  | nil => exact h
  | cons b x ih => exact ih (scribbleFrom_wf f _ _ h)

theorem readByte_scribbleFrom (f : Nat → Byte) {m : Memory} (h : Memory.wf m = true) (a n x : Nat) :
    readByte (scribbleFrom f m a n) x = if a ≤ x ∧ x < a + n then f x else readByte m x := by
  induction n generalizing m a with
  | zero =>
    have : ¬(a ≤ x ∧ x < a + 0) := by omega
    rw [if_neg this]; rfl
  | succ n ih =>
    rw [scribbleFrom, ih (writeByte_wf _ _ h), readByte_writeByte h]
    by_cases hx : x = a
    · subst hx
      rw [if_neg (by omega), if_pos rfl, if_pos (by omega)]
    · by_cases hin : a ≤ x ∧ x < a + (n + 1)
      · rw [if_pos (by omega), if_pos hin]
      · rw [if_neg (by omega), if_neg hx, if_neg hin]

/-- Losing an extent opens its bytes only: the others read as before. -/
theorem readByte_scribble_of_outside (f : Nat → Byte) {m : Memory} (h : Memory.wf m = true)
    (x : List Buf) (a : Nat) (hx : ∀ b ∈ x, hasByte b a = false) :
    readByte (scribble f m x) a = readByte m a := by
  induction x generalizing m with
  | nil => rfl
  | cons b x ih =>
    have hb := hx b (by simp)
    rw [scribble, ih (scribbleFrom_wf f _ _ h) (fun c hc => hx c (by simp [hc])),
      readByte_scribbleFrom f h, if_neg]
    simp only [hasByte, Bool.and_eq_false_iff, decide_eq_false_iff_not] at hb
    omega

end Sys2Proof.Laws
end

