-- ==== Sys2Proof/Laws/Operands.lean ====
section
/-!
SUPPORT. What the operand operations do: check lists, refused bytes, numbers, and bit fields bit by bit.
-/

namespace Sys2Proof.Laws

open Sys2Proof.Machine

/-! ### Check lists -/

/-- All checks pass exactly when no condition of the list holds. -/
theorem firstFailure_eq_none_iff (cs : List Check) :
    firstFailure cs = none ↔ ∀ c ∈ cs, c.1 = false := by
  induction cs with
  | nil => simp [firstFailure]
  | cons c cs ih =>
    obtain ⟨b, e⟩ := c
    cases b <;> simp [firstFailure, ih]

@[simp] theorem firstFailure_true (e : Cause) (cs : List Check) :
    firstFailure ((true, e) :: cs) = some e := rfl

@[simp] theorem firstFailure_false (e : Cause) (cs : List Check) :
    firstFailure ((false, e) :: cs) = firstFailure cs := rfl

/-! ### Refused bytes -/

/-- No byte of the buffers is refused exactly when Mapped admits every byte of each. -/
theorem refusedIn_eq_nil_iff (p : Params) (bufs : List Buf) :
    refusedIn p bufs = [] ↔
      ∀ b ∈ bufs, ∀ a, b.addr ≤ a → a < b.addr + b.len → mapped p a = true := by
  simp only [refusedIn, List.filter_eq_nil_iff, List.mem_flatMap, List.mem_range'_1]
  constructor
  · intro h b hb a h1 h2
    have := h a ⟨b, hb, h1, h2⟩
    simpa using this
  · rintro h a ⟨b, hb, h1, h2⟩
    simp [h b hb a h1 h2]

/-- A refused byte is a byte of one of the buffers that Mapped refuses. -/
theorem mem_refusedIn {p : Params} {bufs : List Buf} {a : Nat} (h : a ∈ refusedIn p bufs) :
    mapped p a = false ∧ ∃ b ∈ bufs, b.addr ≤ a ∧ a < b.addr + b.len := by
  simp only [refusedIn, List.mem_filter, List.mem_flatMap, List.mem_range'_1] at h
  obtain ⟨⟨b, hb, h1, h2⟩, h3⟩ := h
  exact ⟨by simpa using h3, b, hb, h1, h2⟩

/-- The reported address is one of the refused ones. -/
theorem chooseRefused_mem (n : Nat) {l : List Nat} (h : l ≠ []) : chooseRefused n l ∈ l := by
  match l with
  | [] => exact absurd rfl h
  | [a] => simp [chooseRefused]
  | a :: b :: rest =>
    have hlt : Config.freeChoice n % (rest.length + 2) < (a :: b :: rest).length :=
      Nat.mod_lt _ (by omega)
    rw [chooseRefused, List.getD_eq_getElem _ _ hlt]
    exact List.getElem_mem hlt

/-! ### Numbers -/

theorem maskTo_lt (w v : Nat) : maskTo w v < 2 ^ w := Nat.mod_lt _ (by positivity)

theorem testBit_maskTo (w v t : Nat) : (maskTo w v).testBit t = (decide (t < w) && v.testBit t) := by
  simp [maskTo, Nat.testBit_mod_two_pow]

theorem wBits_pos (w : Width) : 0 < wBits w := by cases w <;> decide

theorem wBytes_pos (w : Width) : 0 < wBytes w := by cases w <;> decide

theorem wBits_eq (w : Width) : wBits w = 8 * wBytes w := by cases w <;> rfl

theorem bitIndex_lt (w : Width) (o : Nat) : bitIndex w o < wBits w := Nat.mod_lt _ (wBits_pos w)

/-- Word index and bit index determine the offset (40_bitstream.md R110). -/
theorem offset_eq (w : Width) (o : Nat) : wordIndex w o * wBits w + bitIndex w o = o := by
  simp only [wordIndex, bitIndex]; exact Nat.div_add_mod' o (wBits w)

/-- bitsNeeded is the least width that holds the value (00_scope.md R8). -/
theorem bitsNeeded_le_iff (r n : Nat) : bitsNeeded r ≤ n ↔ r < 2 ^ n := by
  unfold bitsNeeded
  split
  · rename_i h; subst h; simp
  · rename_i h
    rw [Nat.succ_le_iff, Nat.log2_lt h]

theorem lt_two_pow_bitsNeeded (r : Nat) : r < 2 ^ bitsNeeded r := (bitsNeeded_le_iff r _).mp le_rfl

/-- The packed size is a whole number of words. -/
theorem packedSize_div (w : Width) (n fw : Nat) :
    packedSize w n fw / wBytes w * wBytes w = packedSize w n fw := by
  rw [packedSize, Nat.mul_div_cancel _ (wBytes_pos w)]

/-- Every field fits the packed buffer (00_scope.md R10). -/
theorem le_packedSize (w : Width) (n fw : Nat) : n * fw ≤ 8 * packedSize w n fw := by
  have h := Nat.lt_div_mul_add (a := n * fw + (wBits w - 1)) (wBits_pos w)
  have hp := wBits_pos w
  have e : 8 * packedSize w n fw = (n * fw + (wBits w - 1)) / wBits w * wBits w := by
    rw [packedSize, ceilDiv]; simp only [wBits_eq w]; ring
  omega

/-! ### Bit fields (40_bitstream.md R110) -/

/-- The field read from two words, bit by bit: bit t comes from the first word while it lasts, then from
the second (40_bitstream.md R112). -/
theorem testBit_extractField (w : Width) (fw o x0 x1 t : Nat) (h0 : x0 < 2 ^ wBits w) :
    (extractField w fw o x0 x1).testBit t =
      (decide (t < fw) &&
        if bitIndex w o + t < wBits w then x0.testBit (bitIndex w o + t)
        else decide (bitIndex w o + t - wBits w < bitIndex w o) &&
          x1.testBit (bitIndex w o + t - wBits w)) := by
  have hb := bitIndex_lt w o
  have hx0 : ∀ i, wBits w ≤ i → x0.testBit i = false := fun i hi =>
    Nat.testBit_lt_two_pow (lt_of_lt_of_le h0 (Nat.pow_le_pow_right (by norm_num) hi))
  simp only [extractField, testBit_maskTo, spans]
  by_cases ht : t < fw
  · simp only [ht, decide_true, Bool.true_and]
    by_cases hs : wBits w - bitIndex w o < fw
    · simp only [hs, decide_true, if_true, Nat.testBit_or, testBit_maskTo, Nat.testBit_shiftRight,
        Nat.testBit_shiftLeft]
      by_cases h : bitIndex w o + t < wBits w
      · have : ¬ (wBits w - bitIndex w o ≤ t) := by omega
        simp [h, this]
      · have h1 : wBits w - bitIndex w o ≤ t := by omega
        have h2 : t - (wBits w - bitIndex w o) = bitIndex w o + t - wBits w := by omega
        rw [hx0 _ (by omega)]
        by_cases h3 : t < wBits w
        · have : bitIndex w o + t - wBits w < bitIndex w o := by omega
          simp [h, h1, h2, h3, this]
        · have : ¬ bitIndex w o + t - wBits w < bitIndex w o := by omega
          simp [h, h3, this]
    · have h : bitIndex w o + t < wBits w := by omega
      simp [hs, Nat.testBit_shiftRight, h]
  · simp [ht]

theorem length_orField (w : Width) (fw : Nat) (out : List Nat) (o v : Nat) :
    (orField w fw out o v).length = out.length := by
  unfold orField; simp only; split <;> simp

theorem length_orFields (w : Width) (fw : Nat) (out : List Nat) (i : Nat) (vs : List Nat) :
    (orFields w fw out i vs).length = out.length := by
  induction vs generalizing out i with
  | nil => rfl
  | cons v vs ih => rw [orFields, ih, length_orField]

theorem length_packWords (w : Width) (fw : Nat) (vs : List Nat) :
    (packWords w fw vs).length = packedSize w vs.length fw / wBytes w := by
  rw [packWords, length_orFields, List.length_replicate]

/-- Bit p of a word list read as one bit string (00_scope.md R11). -/
def wordBit (w : Width) (xs : List Nat) (p : Nat) : Bool :=
  (xs.getD (p / wBits w) 0).testBit (p % wBits w)

/-- ORing a field in sets the bits of its value inside the field and no other bit (40_bitstream.md
R110, R113). -/
theorem wordBit_orField (w : Width) (fw : Nat) (out : List Nat) (o v p : Nat) (hfw : fw ≤ wBits w)
    (hv : v < 2 ^ fw) (hp : p / wBits w < out.length) :
    wordBit w (orField w fw out o v) p =
      (wordBit w out p || (decide (o ≤ p) && v.testBit (p - o))) := by
  have hW := wBits_pos w
  have hb := bitIndex_lt w o
  have ho := offset_eq w o
  have hpe : p / wBits w * wBits w + p % wBits w = p := Nat.div_add_mod' p (wBits w)
  have hpm : p % wBits w < wBits w := Nat.mod_lt _ hW
  have hvb : ∀ i, fw ≤ i → v.testBit i = false := fun i hi =>
    Nat.testBit_lt_two_pow (lt_of_lt_of_le hv (Nat.pow_le_pow_right (by norm_num) hi))
  set q := p / wBits w with hq
  set r := p % wBits w with hr
  set wi := wordIndex w o with hwi
  set bi := bitIndex w o with hbi
  have key : ∀ (l : List Nat) (i : Nat) (f : Nat → Nat), q < l.length →
      (l.modify i f).getD q 0 = if i = q then f (l.getD q 0) else l.getD q 0 := by
    intro l i f hl
    rw [List.getD_eq_getElem _ _ (by simpa using hl), List.getElem_modify,
      List.getD_eq_getElem _ _ hl]
  have hlow : ∀ (x : Nat), (x ||| lowPart w o v).testBit r =
      (x.testBit r || (decide (bi ≤ r) && v.testBit (r - bi))) := by
    intro x
    simp [lowPart, testBit_maskTo, Nat.testBit_shiftLeft, hpm, ← hbi]
  have hhigh : ∀ (x : Nat), (x ||| highPart w o v).testBit r =
      (x.testBit r || v.testBit (wBits w - bi + r)) := by
    intro x
    simp [highPart, Nat.testBit_shiftRight, ← hbi]
  simp only [wordBit, orField, ← hq, ← hr, ← hwi]
  by_cases hs : spans w o fw = true
  · simp only [hs, if_true]
    have hs' : wBits w - bi < fw := by simpa [spans, ← hbi] using hs
    rw [key _ _ _ (by simpa using hp), key _ _ _ hp]
    by_cases h1 : wi = q
    · have h2 : ¬ wi + 1 = q := by omega
      rw [if_neg h2, if_pos h1, hlow]
      have e1 : decide (o ≤ p) = decide (bi ≤ r) := by
        rw [← h1] at hpe
        exact decide_eq_decide.mpr (by omega)
      have e2 : p - o = r - bi := by rw [← h1] at hpe; omega
      rw [e1, e2]
    · by_cases h2 : wi + 1 = q
      · rw [if_pos h2, if_neg h1, hhigh]
        have hexp : q * wBits w = wi * wBits w + wBits w := by rw [← h2]; ring
        have e1 : decide (o ≤ p) = true := decide_eq_true (by omega)
        have e2 : p - o = wBits w - bi + r := by omega
        rw [e1, e2, Bool.true_and]
      · rw [if_neg h2, if_neg h1]
        by_cases hlt : q < wi
        · have : (q + 1) * wBits w ≤ wi * wBits w := Nat.mul_le_mul_right _ hlt
          have : ¬ o ≤ p := by
            have : (q + 1) * wBits w = q * wBits w + wBits w := by ring
            omega
          simp [this]
        · have hge : wi + 2 ≤ q := by omega
          have : (wi + 2) * wBits w ≤ q * wBits w := Nat.mul_le_mul_right _ hge
          have e : (wi + 2) * wBits w = wi * wBits w + wBits w + wBits w := by ring
          rw [hvb (p - o) (by omega)]
          simp
  · have hs' : ¬ wBits w - bi < fw := by simpa [spans, ← hbi] using hs
    simp only [hs, if_false, Bool.false_eq_true]
    rw [key _ _ _ hp]
    by_cases h1 : wi = q
    · rw [if_pos h1, hlow]
      have e1 : decide (o ≤ p) = decide (bi ≤ r) := by
        rw [← h1] at hpe
        exact decide_eq_decide.mpr (by omega)
      have e2 : p - o = r - bi := by rw [← h1] at hpe; omega
      rw [e1, e2]
    · rw [if_neg h1]
      by_cases hlt : q < wi
      · have : (q + 1) * wBits w ≤ wi * wBits w := Nat.mul_le_mul_right _ hlt
        have : ¬ o ≤ p := by
          have : (q + 1) * wBits w = q * wBits w + wBits w := by ring
          omega
        simp [this]
      · have hge : wi + 1 ≤ q := by omega
        have : (wi + 1) * wBits w ≤ q * wBits w := Nat.mul_le_mul_right _ hge
        have e : (wi + 1) * wBits w = wi * wBits w + wBits w := by ring
        rw [hvb (p - o) (by omega)]
        simp

end Sys2Proof.Laws
end

