-- ==== Sys2Proof/Laws/State.lean ====
section
/-!
SUPPORT. The fields of a state after each shared update: one lemma per field per update, by rfl.
-/

namespace Sys2Proof.Laws

open Sys2Proof.Machine

/-! ### State.fail -/

@[simp] theorem fail_cfg (e : Cause) (s : State) : (s.fail e).cfg = s.cfg := rfl
@[simp] theorem fail_ie (e : Cause) (s : State) : (s.fail e).ie = s.ie := rfl
@[simp] theorem fail_cmd (e : Cause) (s : State) : (s.fail e).cmd = s.cmd := rfl
@[simp] theorem fail_done (e : Cause) (s : State) : (s.fail e).done = true := rfl
@[simp] theorem fail_overrun (e : Cause) (s : State) : (s.fail e).overrun = s.overrun := rfl
@[simp] theorem fail_err (e : Cause) (s : State) : (s.fail e).err = e.kind.code := rfl
@[simp] theorem fail_errSub (e : Cause) (s : State) : (s.fail e).errSub = e.sub := rfl
@[simp] theorem fail_errAddr (e : Cause) (s : State) : (s.fail e).errAddr = e.address.getD s.errAddr := rfl
@[simp] theorem fail_srcAddr (e : Cause) (s : State) : (s.fail e).srcAddr = s.srcAddr := rfl
@[simp] theorem fail_srcLen (e : Cause) (s : State) : (s.fail e).srcLen = s.srcLen := rfl
@[simp] theorem fail_dstAddr (e : Cause) (s : State) : (s.fail e).dstAddr = s.dstAddr := rfl
@[simp] theorem fail_dstCap (e : Cause) (s : State) : (s.fail e).dstCap = s.dstCap := rfl
@[simp] theorem fail_ch0Addr (e : Cause) (s : State) : (s.fail e).ch0Addr = s.ch0Addr := rfl
@[simp] theorem fail_ch1Addr (e : Cause) (s : State) : (s.fail e).ch1Addr = s.ch1Addr := rfl
@[simp] theorem fail_ch2Addr (e : Cause) (s : State) : (s.fail e).ch2Addr = s.ch2Addr := rfl
@[simp] theorem fail_count (e : Cause) (s : State) : (s.fail e).count = s.count := rfl
@[simp] theorem fail_bitOffset (e : Cause) (s : State) : (s.fail e).bitOffset = s.bitOffset := rfl
@[simp] theorem fail_fieldWidth (e : Cause) (s : State) : (s.fail e).fieldWidth = s.fieldWidth := rfl
@[simp] theorem fail_value (e : Cause) (s : State) : (s.fail e).value = s.value := rfl
@[simp] theorem fail_result (e : Cause) (s : State) : (s.fail e).result = s.result := rfl
@[simp] theorem fail_minReg (e : Cause) (s : State) : (s.fail e).minReg = s.minReg := rfl
@[simp] theorem fail_bitWidth (e : Cause) (s : State) : (s.fail e).bitWidth = s.bitWidth := rfl
@[simp] theorem fail_algo (e : Cause) (s : State) : (s.fail e).algo = s.algo := rfl
@[simp] theorem fail_outLen (e : Cause) (s : State) : (s.fail e).outLen = s.outLen := rfl
@[simp] theorem fail_engine (e : Cause) (s : State) : (s.fail e).engine = Engine.idle := rfl
@[simp] theorem fail_mem (e : Cause) (s : State) : (s.fail e).mem = s.mem := rfl
@[simp] theorem fail_service (e : Cause) (s : State) : (s.fail e).service = s.service := rfl
@[simp] theorem fail_inputs (e : Cause) (s : State) : (s.fail e).inputs = s.inputs := rfl
@[simp] theorem fail_reply (e : Cause) (s : State) : (s.fail e).reply = s.reply := rfl
@[simp] theorem fail_fresh (e : Cause) (s : State) : (s.fail e).fresh = s.fresh + 1 := rfl
@[simp] theorem fail_resets (e : Cause) (s : State) : (s.fail e).resets = s.resets := rfl

/-! ### State.succeed -/

@[simp] theorem succeed_cfg (c : Commit) (s : State) : (s.succeed c).cfg = s.cfg := rfl
@[simp] theorem succeed_ie (c : Commit) (s : State) : (s.succeed c).ie = s.ie := rfl
@[simp] theorem succeed_cmd (c : Commit) (s : State) : (s.succeed c).cmd = s.cmd := rfl
@[simp] theorem succeed_done (c : Commit) (s : State) : (s.succeed c).done = true := rfl
@[simp] theorem succeed_overrun (c : Commit) (s : State) : (s.succeed c).overrun = s.overrun := rfl
@[simp] theorem succeed_err (c : Commit) (s : State) : (s.succeed c).err = 0 := rfl
@[simp] theorem succeed_errSub (c : Commit) (s : State) : (s.succeed c).errSub = s.errSub := rfl
@[simp] theorem succeed_errAddr (c : Commit) (s : State) : (s.succeed c).errAddr = s.errAddr := rfl
@[simp] theorem succeed_srcAddr (c : Commit) (s : State) : (s.succeed c).srcAddr = s.srcAddr := rfl
@[simp] theorem succeed_srcLen (c : Commit) (s : State) : (s.succeed c).srcLen = s.srcLen := rfl
@[simp] theorem succeed_dstAddr (c : Commit) (s : State) : (s.succeed c).dstAddr = s.dstAddr := rfl
@[simp] theorem succeed_dstCap (c : Commit) (s : State) : (s.succeed c).dstCap = s.dstCap := rfl
@[simp] theorem succeed_ch0Addr (c : Commit) (s : State) : (s.succeed c).ch0Addr = s.ch0Addr := rfl
@[simp] theorem succeed_ch1Addr (c : Commit) (s : State) : (s.succeed c).ch1Addr = s.ch1Addr := rfl
@[simp] theorem succeed_ch2Addr (c : Commit) (s : State) : (s.succeed c).ch2Addr = s.ch2Addr := rfl
@[simp] theorem succeed_count (c : Commit) (s : State) : (s.succeed c).count = s.count := rfl
@[simp] theorem succeed_bitOffset (c : Commit) (s : State) : (s.succeed c).bitOffset = s.bitOffset := rfl
@[simp] theorem succeed_fieldWidth (c : Commit) (s : State) : (s.succeed c).fieldWidth = s.fieldWidth := rfl
@[simp] theorem succeed_value (c : Commit) (s : State) : (s.succeed c).value = s.value := rfl
@[simp] theorem succeed_result (c : Commit) (s : State) : (s.succeed c).result = c.result.getD s.result := rfl
@[simp] theorem succeed_minReg (c : Commit) (s : State) : (s.succeed c).minReg = c.minReg.getD s.minReg := rfl
@[simp] theorem succeed_bitWidth (c : Commit) (s : State) : (s.succeed c).bitWidth = c.bitWidth.getD s.bitWidth := rfl
@[simp] theorem succeed_algo (c : Commit) (s : State) : (s.succeed c).algo = c.algo.getD s.algo := rfl
@[simp] theorem succeed_outLen (c : Commit) (s : State) : (s.succeed c).outLen = c.outLen.getD s.outLen := rfl
@[simp] theorem succeed_engine (c : Commit) (s : State) : (s.succeed c).engine = Engine.idle := rfl
@[simp] theorem succeed_mem (c : Commit) (s : State) : (s.succeed c).mem = s.mem := rfl
@[simp] theorem succeed_service (c : Commit) (s : State) : (s.succeed c).service = s.service := rfl
@[simp] theorem succeed_inputs (c : Commit) (s : State) : (s.succeed c).inputs = s.inputs := rfl
@[simp] theorem succeed_reply (c : Commit) (s : State) : (s.succeed c).reply = s.reply := rfl
@[simp] theorem succeed_fresh (c : Commit) (s : State) : (s.succeed c).fresh = s.fresh := rfl
@[simp] theorem succeed_resets (c : Commit) (s : State) : (s.succeed c).resets = s.resets := rfl

/-! ### State.loseExtent -/

@[simp] theorem loseExtent_cfg (x : List Buf) (s : State) : (s.loseExtent x).cfg = s.cfg := rfl
@[simp] theorem loseExtent_ie (x : List Buf) (s : State) : (s.loseExtent x).ie = s.ie := rfl
@[simp] theorem loseExtent_cmd (x : List Buf) (s : State) : (s.loseExtent x).cmd = s.cmd := rfl
@[simp] theorem loseExtent_done (x : List Buf) (s : State) : (s.loseExtent x).done = s.done := rfl
@[simp] theorem loseExtent_overrun (x : List Buf) (s : State) : (s.loseExtent x).overrun = s.overrun := rfl
@[simp] theorem loseExtent_err (x : List Buf) (s : State) : (s.loseExtent x).err = s.err := rfl
@[simp] theorem loseExtent_errSub (x : List Buf) (s : State) : (s.loseExtent x).errSub = s.errSub := rfl
@[simp] theorem loseExtent_errAddr (x : List Buf) (s : State) : (s.loseExtent x).errAddr = s.errAddr := rfl
@[simp] theorem loseExtent_srcAddr (x : List Buf) (s : State) : (s.loseExtent x).srcAddr = s.srcAddr := rfl
@[simp] theorem loseExtent_srcLen (x : List Buf) (s : State) : (s.loseExtent x).srcLen = s.srcLen := rfl
@[simp] theorem loseExtent_dstAddr (x : List Buf) (s : State) : (s.loseExtent x).dstAddr = s.dstAddr := rfl
@[simp] theorem loseExtent_dstCap (x : List Buf) (s : State) : (s.loseExtent x).dstCap = s.dstCap := rfl
@[simp] theorem loseExtent_ch0Addr (x : List Buf) (s : State) : (s.loseExtent x).ch0Addr = s.ch0Addr := rfl
@[simp] theorem loseExtent_ch1Addr (x : List Buf) (s : State) : (s.loseExtent x).ch1Addr = s.ch1Addr := rfl
@[simp] theorem loseExtent_ch2Addr (x : List Buf) (s : State) : (s.loseExtent x).ch2Addr = s.ch2Addr := rfl
@[simp] theorem loseExtent_count (x : List Buf) (s : State) : (s.loseExtent x).count = s.count := rfl
@[simp] theorem loseExtent_bitOffset (x : List Buf) (s : State) : (s.loseExtent x).bitOffset = s.bitOffset := rfl
@[simp] theorem loseExtent_fieldWidth (x : List Buf) (s : State) : (s.loseExtent x).fieldWidth = s.fieldWidth := rfl
@[simp] theorem loseExtent_value (x : List Buf) (s : State) : (s.loseExtent x).value = s.value := rfl
@[simp] theorem loseExtent_result (x : List Buf) (s : State) : (s.loseExtent x).result = s.result := rfl
@[simp] theorem loseExtent_minReg (x : List Buf) (s : State) : (s.loseExtent x).minReg = s.minReg := rfl
@[simp] theorem loseExtent_bitWidth (x : List Buf) (s : State) : (s.loseExtent x).bitWidth = s.bitWidth := rfl
@[simp] theorem loseExtent_algo (x : List Buf) (s : State) : (s.loseExtent x).algo = s.algo := rfl
@[simp] theorem loseExtent_outLen (x : List Buf) (s : State) : (s.loseExtent x).outLen = s.outLen := rfl
@[simp] theorem loseExtent_engine (x : List Buf) (s : State) : (s.loseExtent x).engine = s.engine := rfl
@[simp] theorem loseExtent_mem (x : List Buf) (s : State) : (s.loseExtent x).mem = scribble (Config.freeByte s.fresh) s.mem x := rfl
@[simp] theorem loseExtent_service (x : List Buf) (s : State) : (s.loseExtent x).service = s.service := rfl
@[simp] theorem loseExtent_inputs (x : List Buf) (s : State) : (s.loseExtent x).inputs = s.inputs := rfl
@[simp] theorem loseExtent_reply (x : List Buf) (s : State) : (s.loseExtent x).reply = s.reply := rfl
@[simp] theorem loseExtent_fresh (x : List Buf) (s : State) : (s.loseExtent x).fresh = s.fresh + 1 := rfl
@[simp] theorem loseExtent_resets (x : List Buf) (s : State) : (s.loseExtent x).resets = s.resets := rfl

/-! ### State.failLosing -/

@[simp] theorem failLosing_cfg (x : List Buf) (e : Cause) (s : State) : (s.failLosing x e).cfg = s.cfg := rfl
@[simp] theorem failLosing_ie (x : List Buf) (e : Cause) (s : State) : (s.failLosing x e).ie = s.ie := rfl
@[simp] theorem failLosing_cmd (x : List Buf) (e : Cause) (s : State) : (s.failLosing x e).cmd = s.cmd := rfl
@[simp] theorem failLosing_done (x : List Buf) (e : Cause) (s : State) : (s.failLosing x e).done = true := rfl
@[simp] theorem failLosing_overrun (x : List Buf) (e : Cause) (s : State) : (s.failLosing x e).overrun = s.overrun := rfl
@[simp] theorem failLosing_err (x : List Buf) (e : Cause) (s : State) : (s.failLosing x e).err = e.kind.code := rfl
@[simp] theorem failLosing_errSub (x : List Buf) (e : Cause) (s : State) : (s.failLosing x e).errSub = e.sub := rfl
@[simp] theorem failLosing_errAddr (x : List Buf) (e : Cause) (s : State) : (s.failLosing x e).errAddr = e.address.getD s.errAddr := rfl
@[simp] theorem failLosing_srcAddr (x : List Buf) (e : Cause) (s : State) : (s.failLosing x e).srcAddr = s.srcAddr := rfl
@[simp] theorem failLosing_srcLen (x : List Buf) (e : Cause) (s : State) : (s.failLosing x e).srcLen = s.srcLen := rfl
@[simp] theorem failLosing_dstAddr (x : List Buf) (e : Cause) (s : State) : (s.failLosing x e).dstAddr = s.dstAddr := rfl
@[simp] theorem failLosing_dstCap (x : List Buf) (e : Cause) (s : State) : (s.failLosing x e).dstCap = s.dstCap := rfl
@[simp] theorem failLosing_ch0Addr (x : List Buf) (e : Cause) (s : State) : (s.failLosing x e).ch0Addr = s.ch0Addr := rfl
@[simp] theorem failLosing_ch1Addr (x : List Buf) (e : Cause) (s : State) : (s.failLosing x e).ch1Addr = s.ch1Addr := rfl
@[simp] theorem failLosing_ch2Addr (x : List Buf) (e : Cause) (s : State) : (s.failLosing x e).ch2Addr = s.ch2Addr := rfl
@[simp] theorem failLosing_count (x : List Buf) (e : Cause) (s : State) : (s.failLosing x e).count = s.count := rfl
@[simp] theorem failLosing_bitOffset (x : List Buf) (e : Cause) (s : State) : (s.failLosing x e).bitOffset = s.bitOffset := rfl
@[simp] theorem failLosing_fieldWidth (x : List Buf) (e : Cause) (s : State) : (s.failLosing x e).fieldWidth = s.fieldWidth := rfl
@[simp] theorem failLosing_value (x : List Buf) (e : Cause) (s : State) : (s.failLosing x e).value = s.value := rfl
@[simp] theorem failLosing_result (x : List Buf) (e : Cause) (s : State) : (s.failLosing x e).result = s.result := rfl
@[simp] theorem failLosing_minReg (x : List Buf) (e : Cause) (s : State) : (s.failLosing x e).minReg = s.minReg := rfl
@[simp] theorem failLosing_bitWidth (x : List Buf) (e : Cause) (s : State) : (s.failLosing x e).bitWidth = s.bitWidth := rfl
@[simp] theorem failLosing_algo (x : List Buf) (e : Cause) (s : State) : (s.failLosing x e).algo = s.algo := rfl
@[simp] theorem failLosing_outLen (x : List Buf) (e : Cause) (s : State) : (s.failLosing x e).outLen = s.outLen := rfl
@[simp] theorem failLosing_engine (x : List Buf) (e : Cause) (s : State) : (s.failLosing x e).engine = Engine.idle := rfl
@[simp] theorem failLosing_mem (x : List Buf) (e : Cause) (s : State) : (s.failLosing x e).mem = scribble (Config.freeByte s.fresh) s.mem x := rfl
@[simp] theorem failLosing_service (x : List Buf) (e : Cause) (s : State) : (s.failLosing x e).service = s.service := rfl
@[simp] theorem failLosing_inputs (x : List Buf) (e : Cause) (s : State) : (s.failLosing x e).inputs = s.inputs := rfl
@[simp] theorem failLosing_reply (x : List Buf) (e : Cause) (s : State) : (s.failLosing x e).reply = s.reply := rfl
@[simp] theorem failLosing_fresh (x : List Buf) (e : Cause) (s : State) : (s.failLosing x e).fresh = s.fresh + 1 + 1 := rfl
@[simp] theorem failLosing_resets (x : List Buf) (e : Cause) (s : State) : (s.failLosing x e).resets = s.resets := rfl

/-! ### holdInput -/

@[simp] theorem holdInput_cfg (s : State) : (holdInput s).cfg = s.cfg := rfl
@[simp] theorem holdInput_ie (s : State) : (holdInput s).ie = s.ie := rfl
@[simp] theorem holdInput_cmd (s : State) : (holdInput s).cmd = s.cmd := rfl
@[simp] theorem holdInput_done (s : State) : (holdInput s).done = s.done := rfl
@[simp] theorem holdInput_overrun (s : State) : (holdInput s).overrun = s.overrun := rfl
@[simp] theorem holdInput_err (s : State) : (holdInput s).err = s.err := rfl
@[simp] theorem holdInput_errSub (s : State) : (holdInput s).errSub = s.errSub := rfl
@[simp] theorem holdInput_errAddr (s : State) : (holdInput s).errAddr = s.errAddr := rfl
@[simp] theorem holdInput_srcAddr (s : State) : (holdInput s).srcAddr = s.srcAddr := rfl
@[simp] theorem holdInput_srcLen (s : State) : (holdInput s).srcLen = s.srcLen := rfl
@[simp] theorem holdInput_dstAddr (s : State) : (holdInput s).dstAddr = s.dstAddr := rfl
@[simp] theorem holdInput_dstCap (s : State) : (holdInput s).dstCap = s.dstCap := rfl
@[simp] theorem holdInput_ch0Addr (s : State) : (holdInput s).ch0Addr = s.ch0Addr := rfl
@[simp] theorem holdInput_ch1Addr (s : State) : (holdInput s).ch1Addr = s.ch1Addr := rfl
@[simp] theorem holdInput_ch2Addr (s : State) : (holdInput s).ch2Addr = s.ch2Addr := rfl
@[simp] theorem holdInput_count (s : State) : (holdInput s).count = s.count := rfl
@[simp] theorem holdInput_bitOffset (s : State) : (holdInput s).bitOffset = s.bitOffset := rfl
@[simp] theorem holdInput_fieldWidth (s : State) : (holdInput s).fieldWidth = s.fieldWidth := rfl
@[simp] theorem holdInput_value (s : State) : (holdInput s).value = s.value := rfl
@[simp] theorem holdInput_result (s : State) : (holdInput s).result = s.result := rfl
@[simp] theorem holdInput_minReg (s : State) : (holdInput s).minReg = s.minReg := rfl
@[simp] theorem holdInput_bitWidth (s : State) : (holdInput s).bitWidth = s.bitWidth := rfl
@[simp] theorem holdInput_algo (s : State) : (holdInput s).algo = s.algo := rfl
@[simp] theorem holdInput_outLen (s : State) : (holdInput s).outLen = s.outLen := rfl
@[simp] theorem holdInput_engine (s : State) : (holdInput s).engine = { s.engine with input := some (ccInput s) } := rfl
@[simp] theorem holdInput_mem (s : State) : (holdInput s).mem = s.mem := rfl
@[simp] theorem holdInput_service (s : State) : (holdInput s).service = s.service := rfl
@[simp] theorem holdInput_inputs (s : State) : (holdInput s).inputs = s.inputs := rfl
@[simp] theorem holdInput_reply (s : State) : (holdInput s).reply = s.reply := rfl
@[simp] theorem holdInput_fresh (s : State) : (holdInput s).fresh = s.fresh := rfl
@[simp] theorem holdInput_resets (s : State) : (holdInput s).resets = s.resets := rfl

/-! ### accept -/

@[simp] theorem accept_cfg (c : Word) (s : State) : (accept c s).cfg = s.cfg := rfl
@[simp] theorem accept_ie (c : Word) (s : State) : (accept c s).ie = s.ie := rfl
@[simp] theorem accept_cmd (c : Word) (s : State) : (accept c s).cmd = c := rfl
@[simp] theorem accept_done (c : Word) (s : State) : (accept c s).done = false := rfl
@[simp] theorem accept_overrun (c : Word) (s : State) : (accept c s).overrun = s.overrun := rfl
@[simp] theorem accept_err (c : Word) (s : State) : (accept c s).err = 0 := rfl
@[simp] theorem accept_errSub (c : Word) (s : State) : (accept c s).errSub = 0 := rfl
@[simp] theorem accept_errAddr (c : Word) (s : State) : (accept c s).errAddr = 0 := rfl
@[simp] theorem accept_srcAddr (c : Word) (s : State) : (accept c s).srcAddr = s.srcAddr := rfl
@[simp] theorem accept_srcLen (c : Word) (s : State) : (accept c s).srcLen = s.srcLen := rfl
@[simp] theorem accept_dstAddr (c : Word) (s : State) : (accept c s).dstAddr = s.dstAddr := rfl
@[simp] theorem accept_dstCap (c : Word) (s : State) : (accept c s).dstCap = s.dstCap := rfl
@[simp] theorem accept_ch0Addr (c : Word) (s : State) : (accept c s).ch0Addr = s.ch0Addr := rfl
@[simp] theorem accept_ch1Addr (c : Word) (s : State) : (accept c s).ch1Addr = s.ch1Addr := rfl
@[simp] theorem accept_ch2Addr (c : Word) (s : State) : (accept c s).ch2Addr = s.ch2Addr := rfl
@[simp] theorem accept_count (c : Word) (s : State) : (accept c s).count = s.count := rfl
@[simp] theorem accept_bitOffset (c : Word) (s : State) : (accept c s).bitOffset = s.bitOffset := rfl
@[simp] theorem accept_fieldWidth (c : Word) (s : State) : (accept c s).fieldWidth = s.fieldWidth := rfl
@[simp] theorem accept_value (c : Word) (s : State) : (accept c s).value = s.value := rfl
@[simp] theorem accept_result (c : Word) (s : State) : (accept c s).result = s.result := rfl
@[simp] theorem accept_minReg (c : Word) (s : State) : (accept c s).minReg = s.minReg := rfl
@[simp] theorem accept_bitWidth (c : Word) (s : State) : (accept c s).bitWidth = s.bitWidth := rfl
@[simp] theorem accept_algo (c : Word) (s : State) : (accept c s).algo = s.algo := rfl
@[simp] theorem accept_outLen (c : Word) (s : State) : (accept c s).outLen = s.outLen := rfl
@[simp] theorem accept_engine (c : Word) (s : State) : (accept c s).engine = { Engine.idle with mode := .running c .validate, fsm := fsmOnAccept c } := rfl
@[simp] theorem accept_mem (c : Word) (s : State) : (accept c s).mem = s.mem := rfl
@[simp] theorem accept_service (c : Word) (s : State) : (accept c s).service = s.service := rfl
@[simp] theorem accept_inputs (c : Word) (s : State) : (accept c s).inputs = s.inputs := rfl
@[simp] theorem accept_reply (c : Word) (s : State) : (accept c s).reply = s.reply := rfl
@[simp] theorem accept_fresh (c : Word) (s : State) : (accept c s).fresh = s.fresh := rfl
@[simp] theorem accept_resets (c : Word) (s : State) : (accept c s).resets = s.resets := rfl

/-! ### acknowledge -/

@[simp] theorem acknowledge_cfg (v : Word) (s : State) : (acknowledge v s).cfg = s.cfg := rfl
@[simp] theorem acknowledge_ie (v : Word) (s : State) : (acknowledge v s).ie = s.ie := rfl
@[simp] theorem acknowledge_cmd (v : Word) (s : State) : (acknowledge v s).cmd = s.cmd := rfl
@[simp] theorem acknowledge_done (v : Word) (s : State) : (acknowledge v s).done = (s.done && !v.getLsbD 1) := rfl
@[simp] theorem acknowledge_overrun (v : Word) (s : State) : (acknowledge v s).overrun = (s.overrun && !v.getLsbD 2) := rfl
@[simp] theorem acknowledge_err (v : Word) (s : State) : (acknowledge v s).err = s.err := rfl
@[simp] theorem acknowledge_errSub (v : Word) (s : State) : (acknowledge v s).errSub = s.errSub := rfl
@[simp] theorem acknowledge_errAddr (v : Word) (s : State) : (acknowledge v s).errAddr = s.errAddr := rfl
@[simp] theorem acknowledge_srcAddr (v : Word) (s : State) : (acknowledge v s).srcAddr = s.srcAddr := rfl
@[simp] theorem acknowledge_srcLen (v : Word) (s : State) : (acknowledge v s).srcLen = s.srcLen := rfl
@[simp] theorem acknowledge_dstAddr (v : Word) (s : State) : (acknowledge v s).dstAddr = s.dstAddr := rfl
@[simp] theorem acknowledge_dstCap (v : Word) (s : State) : (acknowledge v s).dstCap = s.dstCap := rfl
@[simp] theorem acknowledge_ch0Addr (v : Word) (s : State) : (acknowledge v s).ch0Addr = s.ch0Addr := rfl
@[simp] theorem acknowledge_ch1Addr (v : Word) (s : State) : (acknowledge v s).ch1Addr = s.ch1Addr := rfl
@[simp] theorem acknowledge_ch2Addr (v : Word) (s : State) : (acknowledge v s).ch2Addr = s.ch2Addr := rfl
@[simp] theorem acknowledge_count (v : Word) (s : State) : (acknowledge v s).count = s.count := rfl
@[simp] theorem acknowledge_bitOffset (v : Word) (s : State) : (acknowledge v s).bitOffset = s.bitOffset := rfl
@[simp] theorem acknowledge_fieldWidth (v : Word) (s : State) : (acknowledge v s).fieldWidth = s.fieldWidth := rfl
@[simp] theorem acknowledge_value (v : Word) (s : State) : (acknowledge v s).value = s.value := rfl
@[simp] theorem acknowledge_result (v : Word) (s : State) : (acknowledge v s).result = s.result := rfl
@[simp] theorem acknowledge_minReg (v : Word) (s : State) : (acknowledge v s).minReg = s.minReg := rfl
@[simp] theorem acknowledge_bitWidth (v : Word) (s : State) : (acknowledge v s).bitWidth = s.bitWidth := rfl
@[simp] theorem acknowledge_algo (v : Word) (s : State) : (acknowledge v s).algo = s.algo := rfl
@[simp] theorem acknowledge_outLen (v : Word) (s : State) : (acknowledge v s).outLen = s.outLen := rfl
@[simp] theorem acknowledge_engine (v : Word) (s : State) : (acknowledge v s).engine = s.engine := rfl
@[simp] theorem acknowledge_mem (v : Word) (s : State) : (acknowledge v s).mem = s.mem := rfl
@[simp] theorem acknowledge_service (v : Word) (s : State) : (acknowledge v s).service = s.service := rfl
@[simp] theorem acknowledge_inputs (v : Word) (s : State) : (acknowledge v s).inputs = s.inputs := rfl
@[simp] theorem acknowledge_reply (v : Word) (s : State) : (acknowledge v s).reply = s.reply := rfl
@[simp] theorem acknowledge_fresh (v : Word) (s : State) : (acknowledge v s).fresh = s.fresh := rfl
@[simp] theorem acknowledge_resets (v : Word) (s : State) : (acknowledge v s).resets = s.resets := rfl

/-! ### Reset -/

@[simp] theorem resetMachine_cfg (s : State) : (resetMachine s).cfg = s.cfg := rfl
@[simp] theorem resetMachine_engine (s : State) : (resetMachine s).engine = Engine.idle := rfl
@[simp] theorem resetMachine_inputs (s : State) : (resetMachine s).inputs = s.inputs := rfl
@[simp] theorem resetMachine_service (s : State) : (resetMachine s).service = s.service := rfl
@[simp] theorem resetMachine_reply (s : State) : (resetMachine s).reply = s.reply := rfl
@[simp] theorem resetMachine_mem (s : State) : (resetMachine s).mem = (abortCommand s).mem := rfl
@[simp] theorem resetMachine_fresh (s : State) : (resetMachine s).fresh = (abortCommand s).fresh := rfl
@[simp] theorem resetMachine_resets (s : State) : (resetMachine s).resets = s.resets + 1 := rfl

/-! ### BUSY and the running command -/

@[simp] theorem busy_of_idle {s : State} (h : s.engine.mode = .idle) : s.busy = false := by
  simp [State.busy, h]

@[simp] theorem busy_of_running {s : State} {c : Word} {ph : Phase}
    (h : s.engine.mode = .running c ph) : s.busy = true := by
  simp [State.busy, h]

@[simp] theorem idle_mode : Engine.idle.mode = .idle := rfl
@[simp] theorem idle_raced : Engine.idle.raced = false := rfl
@[simp] theorem idle_request : Engine.idle.request = none := rfl
@[simp] theorem idle_input : Engine.idle.input = none := rfl
@[simp] theorem idle_extent : Engine.idle.extent = [] := rfl
@[simp] theorem fail_busy (e : Cause) (s : State) : (s.fail e).busy = false := rfl
@[simp] theorem failLosing_busy (x : List Buf) (e : Cause) (s : State) : (s.failLosing x e).busy = false := rfl
@[simp] theorem succeed_busy (c : Commit) (s : State) : (s.succeed c).busy = false := rfl
@[simp] theorem accept_busy (c : Word) (s : State) : (accept c s).busy = true := rfl

end Sys2Proof.Laws
end

