-- ==== Sys2Proof/Laws/Ops.lean ====
section
/-!
SUPPORT. What the shared operations can do: the outcomes of a rule, of COMMIT, of a request and of a
step, each said once.
-/

namespace Sys2Proof.Laws

open Sys2Proof.Machine
open Sys2Proof.Safety

/-! ### Commands as rules -/

theorem exec_bsWr (w : Width) (s : State) :
    exec (.bsWr w) s = .next (runRule (bsWrRule w) s) := by cases w <;> rfl

theorem exec_bsRd (w : Width) (s : State) :
    exec (.bsRd w) s = .next (runRule (bsRdRule w) s) := by cases w <;> rfl

theorem exec_bsPack (w : Width) (s : State) :
    exec (.bsPack w) s = .next (runRule (bsPackRule w) s) := by cases w <;> rfl

theorem exec_bsUnpack (w : Width) (s : State) :
    exec (.bsUnpack w) s = .next (runRule (bsUnpackRule w) s) := by cases w <;> rfl

theorem exec_ddEnc (w : Width) (s : State) :
    exec (.ddEnc w) s = .next (runRule (ddEncRule w) s) := by cases w <;> rfl

theorem exec_ddDec (w : Width) (s : State) :
    exec (.ddDec w) s = .next (runRule (ddDecRule w) s) := by cases w <;> rfl

theorem exec_fsSplit (w : Width) (s : State) :
    exec (.fsSplit w) s = .next (runRule (fsSplitRule w) s) := by cases w <;> rfl

theorem exec_fsRecomb (w : Width) (s : State) :
    exec (.fsRecomb w) s = .next (runRule (fsRecombRule w) s) := by cases w <;> rfl

theorem exec_ccSelect (s : State) : exec .ccSelect s = .next (runSelector .compress s) := rfl

theorem exec_ccExpand (s : State) : exec .ccExpand s = .next (runSelector .decompress s) := rfl

/-- Every command is its unit's rule or the selector. -/
theorem exec_eq_unit (i : Instr) (s : State) :
    exec i s = .next (match unitOf i with
      | .rule r => runRule r s
      | .selector op => runSelector op s) := by
  cases i <;> rfl

/-! ### The outcomes of a rule (30_encoding.md R93, R96) -/

theorem readPhase_of_admitted {r : Rule} {s : State} (h : refusedIn s.cfg (r.reads s) = []) :
    readPhase r s = r.plan s := by
  simp [readPhase, h]

theorem readPhase_of_refused {r : Rule} {s : State} (h : refusedIn s.cfg (r.reads s) ≠ []) :
    readPhase r s = .error (busReadCause s (refusedIn s.cfg (r.reads s))) := by
  unfold readPhase
  split
  · rename_i h0; exact absurd h0 h
  · rename_i h0; rw [h0]

/-- A VALIDATE check fails. -/
theorem runRule_of_check {r : Rule} {s : State} {e : Cause}
    (h : firstFailure (r.checks s) = some e) : runRule r s = s.fail e := by
  simp [runRule, h]

/-- READ raises. -/
theorem runRule_of_readError {r : Rule} {s : State} {e : Cause}
    (h : firstFailure (r.checks s) = none) (hr : readPhase r s = .error e) :
    runRule r s = s.fail e := by
  simp [runRule, h, hr]

/-- WRITE meets a refused byte. -/
theorem runRule_of_writeRefused {r : Rule} {s : State} {job : Job}
    (h : firstFailure (r.checks s) = none) (hr : readPhase r s = .ok job)
    (hw : refusedIn s.cfg (extentOf job.out) ≠ []) :
    runRule r s = failWrite (extentOf job.out) s := by
  simp only [runRule, h, hr]
  split
  · rename_i h0; exact absurd h0 hw
  · rfl

/-- The command reaches COMMIT. -/
theorem runRule_of_admitted {r : Rule} {s : State} {job : Job}
    (h : firstFailure (r.checks s) = none) (hr : readPhase r s = .ok job)
    (hw : refusedIn s.cfg (extentOf job.out) = []) :
    runRule r s = conclude (r.named s) (extentOf job.out) job.commit
      { s with mem := storePieces s.mem job.out } := by
  simp [runRule, h, hr, hw]

/-- Everything a rule can do. -/
theorem runRule_cases (r : Rule) (s : State) :
    (∃ e, (firstFailure (r.checks s) = some e ∨
        (firstFailure (r.checks s) = none ∧ readPhase r s = .error e)) ∧ runRule r s = s.fail e) ∨
      ∃ job, firstFailure (r.checks s) = none ∧ readPhase r s = .ok job ∧
        ((refusedIn s.cfg (extentOf job.out) ≠ [] ∧ runRule r s = failWrite (extentOf job.out) s) ∨
          (refusedIn s.cfg (extentOf job.out) = [] ∧
            runRule r s = conclude (r.named s) (extentOf job.out) job.commit
              { s with mem := storePieces s.mem job.out })) := by
  rcases hc : firstFailure (r.checks s) with _ | e
  · rcases hr : readPhase r s with e | job
    · exact .inl ⟨e, .inr ⟨rfl, rfl⟩, runRule_of_readError hc hr⟩
    · refine .inr ⟨job, rfl, rfl, ?_⟩
      by_cases hw : refusedIn s.cfg (extentOf job.out) = []
      · exact .inr ⟨hw, runRule_of_admitted hc hr hw⟩
      · exact .inl ⟨hw, runRule_of_writeRefused hc hr hw⟩
  · exact .inl ⟨e, .inl rfl, runRule_of_check hc⟩

/-! ### Completion with an error (30_encoding.md R94) -/

/-- A completion with an error, in the terms of the statements. -/
theorem fail_eq_failedWith (e : Cause) (s : State) :
    s.fail e = { failedWith e.kind.code e.sub s with errAddr := e.address.getD s.errAddr } := rfl

/-- The same for an error raised in WRITE. -/
theorem failLosing_eq_failedWith (x : List Buf) (e : Cause) (s : State) :
    s.failLosing x e =
      { failedWith e.kind.code e.sub s with
        errAddr := e.address.getD s.errAddr
        mem := scribble (Config.freeByte s.fresh) s.mem x
        fresh := s.fresh + 1 + 1 } := rfl

/-- An error raised in WRITE changes no byte outside the extent (60_exceptions.md R183 (b)). -/
theorem failLosing_sameOutside {s : State} (h : Memory.wf s.mem = true) (x : List Buf) (e : Cause) :
    SameOutside x s.mem (s.failLosing x e).mem :=
  fun a ha => readByte_scribble_of_outside _ h x a ha

theorem failLosing_wf {s : State} (h : Memory.wf s.mem = true) (x : List Buf) (e : Cause) :
    Memory.wf (s.failLosing x e).mem = true :=
  scribble_wf _ x h

/-- The address of a bus error is that of a refused byte (60_exceptions.md R184). -/
theorem refusedByte_of_mem {p : Params} {bufs : List Buf} {n : Nat} (h : n ∈ refusedIn p bufs)
    (hn : n < 2 ^ 64) : RefusedByte p bufs (BitVec.ofNat 64 n) := by
  obtain ⟨hm, b, hb, h1, h2⟩ := mem_refusedIn h
  have e : (BitVec.ofNat 64 n).toNat = n := by simpa using hn
  exact ⟨⟨b, hb, by rw [e]; simp [hasByte, h1, h2]⟩, by rw [e]; exact hm⟩

/-- No byte of the buffers is refused, as a computation. -/
theorem refusedIn_eq_nil_iff_allAdmitted (p : Params) (bufs : List Buf) :
    refusedIn p bufs = [] ↔ AllAdmitted p bufs :=
  refusedIn_eq_nil_iff p bufs

/-! ### COMMIT -/

theorem conclude_of_quiet {named extent : List Buf} {c : Commit} {s : State}
    (h : isRaced named s = false) : conclude named extent c s = s.succeed c := by
  simp [conclude, h]

theorem conclude_of_raced {named extent : List Buf} {c : Commit} {s : State}
    (h : isRaced named s = true) :
    conclude named extent c s = (s.loseExtent extent).succeed (c.freed s.fresh) := by
  simp [conclude, h]

/-- Whether there is a race does not depend on memory or registers. -/
theorem isRaced_congr {named : List Buf} {s t : State} (hc : t.cfg = s.cfg)
    (he : t.engine.raced = s.engine.raced) : isRaced named t = isRaced named s := by
  simp [isRaced, hc, he]

/-! ### Requests (43_channel_compressor.md R166) -/

/-- A request is treated as the next entry of the service says, and uses it up. -/
theorem ask_eq (q : Request) (s : State) :
    ask q s = (answerAt s 0 q, { s with service := s.service.drop 1 }) := by
  rcases h : s.service with _ | ⟨a, rest⟩
  · have e : ({ s with service := [] } : State) = s := by rw [← h]
    simp [ask, answerAt, h, e]
  · simp [ask, answerAt, h]

/-- After a request the following ones move up. -/
theorem answerAt_drop (s t : State) (n j : Nat) (q : Request) (h : t.service = s.service.drop n) :
    answerAt t j q = answerAt s (n + j) q := by
  simp [answerAt, h, List.getElem?_drop]

/-! ### The selector FSM (43_channel_compressor.md R162) -/

/-- SIZE once the input is held. -/
theorem fsmSize_of_held {op : PortOp} {s : State} {bs : List Byte} (h : s.engine.input = some bs) :
    fsmSize op s = sendSize op bs s := by
  simp [fsmSize, h]

/-- SIZE reads the input, and holds it. -/
theorem fsmSize_of_read {op : PortOp} {s : State} (h : s.engine.input = none)
    (hr : refusedIn s.cfg [srcBuf s] = []) : fsmSize op s = sendSize op (ccInput s) (holdInput s) := by
  simp [fsmSize, h, hr]

/-- SIZE meets a refused source byte. -/
theorem fsmSize_of_refused {op : PortOp} {s : State} (h : s.engine.input = none)
    (hr : refusedIn s.cfg [srcBuf s] ≠ []) :
    fsmSize op s = toError (busReadCause s (refusedIn s.cfg [srcBuf s])) s := by
  simp only [fsmSize, h]
  split
  · rename_i h0; rw [h0]
  · rename_i h0; exact absurd h0 hr

/-- EMIT asks once for the held input, and data memory does not matter to what it asks. -/
theorem fsmEmit_eq (op : PortOp) (s : State) :
    fsmEmit op s =
      match answerAt s 0 ⟨op, s.engine.bestK, heldInput s⟩ with
      | none =>
        { s with
          service := s.service.drop 1
          engine := { s.engine with request := some ⟨op, s.engine.bestK, heldInput s⟩ } }
      | some r => emitAnswer r { s with service := s.service.drop 1 } := by
  simp only [fsmEmit, ask_eq]
  cases answerAt s 0 ⟨op, s.engine.bestK, heldInput s⟩ <;> rfl

/-- Everything the ERROR state does: a precise completion before WRITE, one that loses the extent in
WRITE (60_exceptions.md R183). -/
theorem fsmError_cases {s : State} {e : Cause} (h : s.engine.cause = some e) :
    (s.engine.extent = [] ∧ fsmError s = s.fail e) ∨
      (s.engine.extent ≠ [] ∧ fsmError s = s.failLosing s.engine.extent e) := by
  rcases hx : s.engine.extent with _ | ⟨b, rest⟩
  · exact .inl ⟨rfl, by simp [fsmError, h, hx]⟩
  · exact .inr ⟨by simp, by simp [fsmError, h, hx]⟩

/-! ### An answer that comes later (43_channel_compressor.md R166; 70_reset_and_hazards.md R201) -/

/-- A response to a request that a reset has abandoned is discarded. -/
theorem serviceAnswer_of_abandoned {n : Nat} {a : Answer} {s : State} (h : n ≠ s.resets) :
    serviceAnswer n a s = s := by
  simp [serviceAnswer, h]

@[simp] theorem serviceAnswer_current (a : Answer) (s : State) :
    serviceAnswer s.resets a s = takeAnswer a s := by
  simp [serviceAnswer]

/-- With no request outstanding every response is discarded. -/
theorem serviceAnswer_of_none {n : Nat} {a : Answer} {s : State} (h : s.engine.request = none) :
    serviceAnswer n a s = s := by
  simp [serviceAnswer, takeAnswer, h]

/-! ### Steps -/

theorem step_of_input {s : State} {i : Input} {rest : List Input} (h : s.inputs = i :: rest) :
    step s = applyInput i { s with inputs := rest } := by
  simp [step, nextMove, h]

theorem step_of_idle {s : State} (h : s.inputs = []) (hm : s.engine.mode = .idle) :
    step s = .next s := by
  simp [step, nextMove, h, hm]

theorem step_of_phase {s : State} {c : Word} {ph : Phase} (h : s.inputs = [])
    (hm : s.engine.mode = .running c ph) (hp : ph ≠ .validate) : step s = .next (engineMove s) := by
  cases ph <;> simp_all [step, nextMove]

/-- The register port on an aligned 8-byte access of the block. -/
theorem portAccess_slot (p : Params) (r : Reg) : portAccess p (p.regBase + r.offset) 8 = .slot r.offset := by
  have h : r.offset % 8 = 0 ∧ r.offset < 256 := by cases r <;> decide
  unfold portAccess
  rw [if_neg (by omega), if_pos ⟨rfl, by omega, by simp [h.1]⟩]
  simp

theorem regAt_offset (r : Reg) : regAt r.offset = some r := by cases r <;> rfl

end Sys2Proof.Laws
end

