-- ==== Sys2Proof/Laws/PerInstr.lean ====
section
/-!
SUPPORT. A statement about every command as syntax, one lemma per constructor: its command word has
legal fields (30_encoding.md R85, R89) and fits the 9 bits that R85 leaves free.
-/

namespace Sys2Proof.Laws.LegalWord

/-- The fields of the command's word pass the tests of R89, and no bit above bit 8 is set. -/
def Statement (i : Instr) : Prop :=
  (cmdFields (encode i)).wellFormed = true ∧ (encode i).toNat < 2 ^ 9

theorem bsWr32 : Statement .bsWr32 := by unfold Statement; decide
theorem bsWr64 : Statement .bsWr64 := by unfold Statement; decide
theorem bsRd32 : Statement .bsRd32 := by unfold Statement; decide
theorem bsRd64 : Statement .bsRd64 := by unfold Statement; decide
theorem bsPack32 : Statement .bsPack32 := by unfold Statement; decide
theorem bsPack64 : Statement .bsPack64 := by unfold Statement; decide
theorem bsUnpack32 : Statement .bsUnpack32 := by unfold Statement; decide
theorem bsUnpack64 : Statement .bsUnpack64 := by unfold Statement; decide
theorem ddEnc32 : Statement .ddEnc32 := by unfold Statement; decide
theorem ddEnc64 : Statement .ddEnc64 := by unfold Statement; decide
theorem ddDec32 : Statement .ddDec32 := by unfold Statement; decide
theorem ddDec64 : Statement .ddDec64 := by unfold Statement; decide
theorem fsSplit32 : Statement .fsSplit32 := by unfold Statement; decide
theorem fsSplit64 : Statement .fsSplit64 := by unfold Statement; decide
theorem fsRecomb32 : Statement .fsRecomb32 := by unfold Statement; decide
theorem fsRecomb64 : Statement .fsRecomb64 := by unfold Statement; decide
theorem ccSelect : Statement .ccSelect := by unfold Statement; decide
theorem ccExpand : Statement .ccExpand := by unfold Statement; decide

end Sys2Proof.Laws.LegalWord
end

