-- ==== Sys2Proof/Tests/Slice0.lean ====
section
/-!
SUPPORT. Tests: the smoke test of WellFormed, every command word written out from 30_encoding.md R85 and
R88, one or two vectors of 95_test_vectors.md for each command, and for every statement with hypotheses
a witness that meets them, clause by clause.
-/

namespace Sys2Proof.Tests

open Sys2Proof Sys2Proof.Machine Sys2Proof.Safety

/-! ### WellFormed: an ill-formed term for each check -/

theorem test_wf_reserved_bits :
    (CmdFields.mk 0x01 false 1).wellFormed = false ∧
      (CmdFields.mk 0x01 false (1#55 <<< 54)).illegal = some .reservedBits := by decide

theorem test_wf_bad_opcode :
    (CmdFields.mk 0x00 false 0).wellFormed = false ∧
      (CmdFields.mk 0x05 true 0).illegal = some .badOpcode := by decide

theorem test_wf_byte_opcode_with_w :
    (CmdFields.mk 0x30 true 0).wellFormed = false ∧
      (CmdFields.mk 0x31 true 0).illegal = some .reservedBits := by decide

theorem test_wf_accepts_both_widths :
    (CmdFields.mk 0x21 false 0).wellFormed = true ∧ (CmdFields.mk 0x21 true 0).wellFormed = true := by
  decide

theorem test_wf_params :
    Params.default.wellFormed = true ∧
      ({ Params.default with nAlgo := 0 } : Params).wellFormed = false ∧
      ({ Params.default with nAlgo := 256 } : Params).wellFormed = false ∧
      ({ Params.default with addrBits := 31 } : Params).wellFormed = false ∧
      ({ Params.default with addrBits := 65 } : Params).wellFormed = false ∧
      ({ Params.default with regBase := 8 } : Params).wellFormed = false := by decide

/-! ### Every command's word, written out as RSV and upper half (55 bits), W, OPC -/

theorem test_decode_bsWr32 : decode (0#55 ++ 0#1 ++ 0x01#8) = .ok .bsWr32 := by decide
theorem test_decode_bsWr64 : decode (0#55 ++ 1#1 ++ 0x01#8) = .ok .bsWr64 := by decide
theorem test_decode_bsRd32 : decode (0#55 ++ 0#1 ++ 0x02#8) = .ok .bsRd32 := by decide
theorem test_decode_bsRd64 : decode (0#55 ++ 1#1 ++ 0x02#8) = .ok .bsRd64 := by decide
theorem test_decode_bsPack32 : decode (0#55 ++ 0#1 ++ 0x03#8) = .ok .bsPack32 := by decide
theorem test_decode_bsPack64 : decode (0#55 ++ 1#1 ++ 0x03#8) = .ok .bsPack64 := by decide
theorem test_decode_bsUnpack32 : decode (0#55 ++ 0#1 ++ 0x04#8) = .ok .bsUnpack32 := by decide
theorem test_decode_bsUnpack64 : decode (0#55 ++ 1#1 ++ 0x04#8) = .ok .bsUnpack64 := by decide
theorem test_decode_ddEnc32 : decode (0#55 ++ 0#1 ++ 0x10#8) = .ok .ddEnc32 := by decide
theorem test_decode_ddEnc64 : decode (0#55 ++ 1#1 ++ 0x10#8) = .ok .ddEnc64 := by decide
theorem test_decode_ddDec32 : decode (0#55 ++ 0#1 ++ 0x11#8) = .ok .ddDec32 := by decide
theorem test_decode_ddDec64 : decode (0#55 ++ 1#1 ++ 0x11#8) = .ok .ddDec64 := by decide
theorem test_decode_fsSplit32 : decode (0#55 ++ 0#1 ++ 0x20#8) = .ok .fsSplit32 := by decide
theorem test_decode_fsSplit64 : decode (0#55 ++ 1#1 ++ 0x20#8) = .ok .fsSplit64 := by decide
theorem test_decode_fsRecomb32 : decode (0#55 ++ 0#1 ++ 0x21#8) = .ok .fsRecomb32 := by decide
theorem test_decode_fsRecomb64 : decode (0#55 ++ 1#1 ++ 0x21#8) = .ok .fsRecomb64 := by decide
theorem test_decode_ccSelect : decode (0#55 ++ 0#1 ++ 0x30#8) = .ok .ccSelect := by decide
theorem test_decode_ccExpand : decode (0#55 ++ 0#1 ++ 0x31#8) = .ok .ccExpand := by decide

/-- The host's two questions on a table word, for the first and the last rows of the table. -/
theorem test_table_word :
    decodeTableWord 32 0x00000001 = some .bsWr32 ∧ decodeTableWord 32 0x00000031 = some .ccExpand ∧
      step (State.reset.withFetchWord 32 0x00000101) =
        exec .bsWr64 (State.reset.withFetchWord 32 0x00000101) := by
  refine ⟨by decide, by decide, by rfl⟩

/-! ### Small states -/

/-- The state after an outcome; the state before it where the outcome is no next state. -/
def after (o : Outcome) (s : State) : State :=
  match o with
  | .next t => t
  | .fault _ => s
  | .refused _ => s

/-- A memory that holds the words of B bytes from an address upward. -/
def memOf (B addr : Nat) (ws : List Nat) : Memory := writeBytes [] addr (wordsBytes B ws)

/-- One source at 0x100, one destination at 0x200, and the usual operands. -/
def small (m : Memory) (srcLen dstCap count fw : Word) : State :=
  { State.reset with
    mem := m, srcAddr := 0x100, srcLen := srcLen, dstAddr := 0x200, dstCap := dstCap
    ch0Addr := 0x300, ch1Addr := 0x340, ch2Addr := 0x380, count := count, fieldWidth := fw }

/-- The bytes at an address after a command. -/
def bytesAfter (i : Instr) (addr n : Nat) (s : State) : List Byte :=
  readBytes (after (exec i s) s).mem addr n

/-- STATUS after a command that was accepted. -/
def statusAfter (i : Instr) (s : State) : Word :=
  statusWord (after (exec i (accept (encode i) s)) s)

/-- A service that answers the given bytes to the next requests. -/
def answers (l : List (List Byte)) : List Answer := l.map (fun bs => .gives (.ok bs))

/-! ### Each command on vectors of 95_test_vectors.md (addresses moved) -/

/-- WR-2: the field spans two words. -/
theorem test_bsWr32_spans :
    bytesAfter .bsWr32 0x200 8 { small [] 0 8 0 8 with bitOffset := 28, value := 0xAB } =
      [0, 0, 0, 0xb0, 0x0a, 0, 0, 0] := by decide

/-- WE-8: WIDTH is reported before MISALIGNED. -/
theorem test_bsWr32_error_order :
    statusAfter .bsWr32 { small [] 0 8 0 0 with dstAddr := 0x202 } = 0x00100102 := by decide

/-- WR-10, 64-bit words. -/
theorem test_bsWr64_spans :
    bytesAfter .bsWr64 0x200 16 { small [] 0 16 0 8 with bitOffset := 60, value := 0xCD } =
      [0, 0, 0, 0, 0, 0, 0, 0xd0, 0x0c, 0, 0, 0, 0, 0, 0, 0] := by decide

/-- RD-2. -/
theorem test_bsRd32_spans :
    (after (exec .bsRd32
      { small (memOf 4 0x100 [0x12345678, 0x9ABCDEF0]) 8 0 0 8 with bitOffset := 28 })
      State.reset).result = 0x01 := by decide

/-- RD-7, and STATUS after success. -/
theorem test_bsRd64_spans :
    (after (exec .bsRd64
      { small (memOf 8 0x100 [0xFEDCBA9876543210, 0xF]) 16 0 0 8 with bitOffset := 60 })
      State.reset).result = 0xFF ∧
    statusAfter .bsRd64
      { small (memOf 8 0x100 [0xFEDCBA9876543210, 0xF]) 16 0 0 8 with bitOffset := 60 } = 0x2 := by
  decide

/-- PK-1. -/
theorem test_bsPack32 :
    bytesAfter .bsPack32 0x200 8 (small (memOf 4 0x100 [0xABC, 0x123, 0xFFF, 0x456]) 0 8 4 12) =
      [0xbc, 0x3a, 0x12, 0xff, 0x6f, 0x45, 0, 0] := by decide

/-- PK-5: the bits above the field width are dropped. -/
theorem test_bsPack32_drops_high_bits :
    bytesAfter .bsPack32 0x200 4 (small (memOf 4 0x100 [0x1FF, 0x100]) 0 4 2 8) =
      [0xff, 0, 0, 0] := by decide

/-- PK-7. -/
theorem test_bsPack64 :
    bytesAfter .bsPack64 0x200 8 (small (memOf 8 0x100 [0x3FF, 0x7FF, 0x400]) 0 8 3 11) =
      [0xff, 0xfb, 0x3f, 0, 0x01, 0, 0, 0] := by decide

/-- PK-1 unpacked. -/
theorem test_bsUnpack32 :
    readWords (after (exec .bsUnpack32
      (small (writeBytes [] 0x100 [0xbc, 0x3a, 0x12, 0xff, 0x6f, 0x45, 0, 0]) 8 16 4 12))
      State.reset).mem 4 0x200 4 = [0xABC, 0x123, 0xFFF, 0x456] := by decide

/-- PK-7 unpacked. -/
theorem test_bsUnpack64 :
    readWords (after (exec .bsUnpack64
      (small (writeBytes [] 0x100 [0xff, 0xfb, 0x3f, 0, 0x01, 0, 0, 0]) 8 24 3 11))
      State.reset).mem 8 0x200 3 = [0x3FF, 0x7FF, 0x400] := by decide

/-- DD-2: a negative minimum. -/
theorem test_ddEnc32_signed :
    bytesAfter .ddEnc32 0x200 4 (small (memOf 4 0x100 [0xFFFFFFFD, 5]) 0 4 2 0) = [0x80, 0, 0, 0] ∧
      (after (exec .ddEnc32 (small (memOf 4 0x100 [0xFFFFFFFD, 5]) 0 4 2 0)) State.reset).minReg =
        0xFFFFFFFFFFFFFFFD := by decide

/-- DE-1: CAPACITY after READ. -/
theorem test_ddEnc32_capacity :
    statusAfter .ddEnc32 (small (memOf 4 0x100 [10, 12, 10, 15]) 0 2 4 0) = 0x00170102 := by decide

/-- DD-8. -/
theorem test_ddEnc64_signed :
    bytesAfter .ddEnc64 0x200 8 (small (memOf 8 0x100 [100, 0xFFFFFFFFFFFFFF9C]) 0 8 2 0) =
        [0xc8, 0, 0, 0, 0, 0, 0, 0] ∧
      (after (exec .ddEnc64 (small (memOf 8 0x100 [100, 0xFFFFFFFFFFFFFF9C]) 0 8 2 0))
        State.reset).bitWidth = 8 := by decide

/-- DD-1 decoded. -/
theorem test_ddDec32 :
    readWords (after (exec .ddDec32
      { small (writeBytes [] 0x100 [0x10, 0x0a, 0, 0]) 4 16 4 0 with minReg := 10, bitWidth := 3 })
      State.reset).mem 4 0x200 4 = [10, 12, 10, 15] := by decide

/-- DD-3 decoded: width 0 reads no byte. -/
theorem test_ddDec32_width_zero :
    readWords (after (exec .ddDec32 { small [] 0 12 3 0 with minReg := 7, bitWidth := 0 })
      State.reset).mem 4 0x200 3 = [7, 7, 7] := by decide

/-- DD-8 decoded. -/
theorem test_ddDec64 :
    readWords (after (exec .ddDec64
      { small (writeBytes [] 0x100 [0xc8, 0, 0, 0, 0, 0, 0, 0]) 8 16 2 0 with
        minReg := 0xFFFFFFFFFFFFFF9C, bitWidth := 8 })
      State.reset).mem 8 0x200 2 = [100, 0xFFFFFFFFFFFFFF9C] := by decide

/-- FS-2: 1.0, -2.0, 1.5; the exponent channel. -/
theorem test_fsSplit32_exponents :
    readWords (after (exec .fsSplit32
      (small (memOf 4 0x100 [0x3F800000, 0xC0000000, 0x3FC00000]) 0 0 3 0)) State.reset).mem 4 0x340 3 =
      [0x7F, 0xFF, 0xFF] := by decide

/-- FS-4: the significand channel of -0.0, a NaN and a subnormal. -/
theorem test_fsSplit32_significands :
    readWords (after (exec .fsSplit32
      (small (memOf 4 0x100 [0x80000000, 0x7FC00001, 0x00000001]) 0 0 3 0)) State.reset).mem 4 0x380 3 =
      [0, 0x400001, 0x400000] := by decide

/-- FS-9, its first two values: signs and exponents. -/
theorem test_fsSplit64 :
    readWords (after (exec .fsSplit64
      (small (memOf 8 0x100 [0x8000000000000000, 0x7FF0000000000001]) 0 0 2 0)) State.reset).mem 8 0x300 2 =
        [1, 0] ∧
      readWords (after (exec .fsSplit64
        (small (memOf 8 0x100 [0x8000000000000000, 0x7FF0000000000001]) 0 0 2 0))
        State.reset).mem 8 0x340 2 = [0x000, 0x7FF] := by decide

/-- FS-2's channels recombined. -/
theorem test_fsRecomb32 :
    readWords (after (exec .fsRecomb32
      (small (writeBytes (writeBytes (writeBytes [] 0x300 (wordsBytes 4 [0, 1, 0])) 0x340
        (wordsBytes 4 [0x7F, 0xFF, 0xFF])) 0x380 (wordsBytes 4 [0, 0, 0x400000])) 0 12 3 0))
      State.reset).mem 4 0x200 3 = [0x3F800000, 0xC0000000, 0x3FC00000] := by decide

/-- A sign element of 2 is FIELD_RANGE. -/
theorem test_fsRecomb32_field_range :
    statusAfter .fsRecomb32 (small (memOf 4 0x300 [2]) 0 4 1 0) = 0x00240202 := by decide

/-- FS-8's channels recombined. -/
theorem test_fsRecomb64 :
    readWords (after (exec .fsRecomb64
      (small (memOf 8 0x340 [0x3FF, 0x7FF]) 0 16 2 0)) State.reset).mem 8 0x200 2 =
      [0x3FF0000000000000, 0x4000000000000000] := by decide

/-- CC-1: the second compressor's two bytes are shorter. -/
theorem test_ccSelect_picks_shortest :
    bytesAfter .ccSelect 0x200 3
        { small [] 4 8 0 0 with service := answers [[0, 0, 0, 0, 0xa1], [0xb2, 4], [0xb2, 4]] } =
        [0xb2, 4, 0] ∧
      (after (exec .ccSelect
        { small [] 4 8 0 0 with service := answers [[0, 0, 0, 0, 0xa1], [0xb2, 4], [0xb2, 4]] })
        State.reset).algo = 2 := by decide

/-- A compressor that answers `fail`: COMPRESS_FAIL(2). -/
theorem test_ccSelect_compress_fail :
    statusAfter .ccSelect
      { small [] 4 8 0 0 with service := [.gives (.ok [1]), .gives .fail] } = 0x01020302 := by decide

/-- EMIT asks again on the bytes READ has read (R162), although another agent has changed the source. -/
theorem test_emit_sends_held_bytes :
    (fsmEmit .compress
      { small (writeBytes [] 0x100 [9, 9]) 2 2 0 0 with
        service := [.withholds]
        engine := { Engine.idle with fsm := .emit, bestK := 2, input := some [1, 2] } }).engine.request =
      some ⟨.compress, 2, [1, 2]⟩ := by decide

/-- An error raised in WRITE frees the extent at its completion, whatever was written there meanwhile. -/
theorem test_error_in_write_frees_the_extent :
    (fsmError
      { small (writeBytes [] 0x200 [9]) 2 2 0 0 with
        engine := { Engine.idle with fsm := .error, cause := some (.nondeterministic 1), extent := [⟨0x200, 1⟩] }
      }).mem = scribble (Config.freeByte 0) (writeBytes [] 0x200 [9]) [⟨0x200, 1⟩] := by rfl

/-- CE-4: NONE copies the bytes. -/
theorem test_ccExpand_none :
    bytesAfter .ccExpand 0x200 4 (small (writeBytes [] 0x100 [9, 8, 7]) 3 3 0 0) = [9, 8, 7, 0] := by
  decide

/-- CE-6: BAD_TAG. -/
theorem test_ccExpand_bad_tag :
    statusAfter .ccExpand { small [] 1 8 0 0 with algo := 3 } = 0x00250202 := by decide

/-- IC-5 and IC-1 of 95_test_vectors.md: an illegal word is accepted and completes with IllegalCommand. -/
theorem test_illegal_word :
    statusWord (after (step (accept 0x00000000 State.reset)) State.reset) = 0x00020402 ∧
      statusWord (after (step (accept 0x00000130 State.reset)) State.reset) = 0x00010402 := by decide

/-! ### Witnesses: for each statement with hypotheses, data that meet them -/

/-- Every command answers a next state. -/
theorem exec_next (i : Instr) (s : State) : exec i s = .next (after (exec i s) s) := by cases i <;> rfl

/-- With no refused region every buffer is admitted. -/
theorem admitted_all {p : Params} (h : p.refused = []) (b : Buf) : Admitted p b := by
  intro a _ _
  simp [mapped, h]

/-- With no refused region all buffers are admitted. -/
theorem allAdmitted_all {p : Params} (h : p.refused = []) (l : List Buf) : AllAdmitted p l :=
  fun b _ => admitted_all h b

/-- A region that holds an address of a buffer refuses it. -/
theorem not_admitted {p : Params} {b : Buf} (a : Nat) (h1 : b.addr ≤ a) (h2 : a < b.addr + b.len)
    (h3 : mapped p a = false) : ¬Admitted p b := by
  intro h
  rw [h a h1 h2] at h3
  exact absurd h3 (by decide)

/-- A refused buffer among some. -/
theorem not_allAdmitted {p : Params} {l : List Buf} {b : Buf} (hb : b ∈ l) (h : ¬Admitted p b) :
    ¬AllAdmitted p l := fun hl => h (hl b hb)

/-- A refused byte above a buffer leaves the buffer admitted. -/
theorem admitted_below {p : Params} {b r : Buf} (h : p.refused = [r]) (hb : b.addr + b.len ≤ r.addr) :
    Admitted p b := by
  intro a _ ha
  have : ¬r.addr ≤ a := by omega
  simp [mapped, h, hasByte, this]

/-- A machine with the given pending moves. -/
def pending (l : List Input) (s : State) : State := { s with inputs := l }

/-- A machine that runs BS.PACK.32 and is at VALIDATE. -/
def busyState : State := accept (encode .bsPack32) State.reset

theorem witness_DecodeEncodeAgree : decode 0x00000131 = .error .reservedBits ∧
    decode 0x00000031 = .ok .ccExpand := by decide

theorem witness_CmdWriteAcceptance :
    ((pending [.regWrite 0x18 8 0x30] State.reset).inputs = .regWrite 0x18 8 0x30 :: [] ∧
      State.reset.busy = false) ∧
    ((pending [.regWrite 0x18 8 0x30] busyState).inputs = .regWrite 0x18 8 0x30 :: [] ∧
      busyState.busy = true) := by decide

theorem witness_StepRunsAcceptedCommand :
    busyState.inputs = [] ∧ busyState.engine.mode = .running 0x3 .validate ∧
      decode 0x3 = .ok .bsPack32 := by decide

/-- The least word that fails each test. -/
theorem witness_IllegalCommandCompletes :
    (State.reset.busy = false ∧
      (pending [.regWrite 0x18 8 0x200] State.reset).inputs = [.regWrite (0 + 0x18) 8 0x200]) ∧
    (0x200 : Word).toNat / 2 ^ 9 ≠ 0 ∧
    ((0x0 : Word).toNat / 2 ^ 9 = 0 ∧
      (0x0 : Word).toNat % 256 ∉ [0x01, 0x02, 0x03, 0x04, 0x10, 0x11, 0x20, 0x21, 0x30, 0x31]) ∧
    ((0x130 : Word).toNat / 2 ^ 9 = 0 ∧ (0x130 : Word).toNat % 256 = 0x30 ∧
      (0x130 : Word).toNat / 256 % 2 = 1 ∧ (0x131 : Word).toNat % 256 = 0x31) := by decide

theorem witness_CommandsComplete :
    State.reset.cfg.wellFormed = true ∧
      ∀ j, j ≤ State.reset.cfg.nAlgo → ∀ q, answerAt State.reset j q ≠ none := by
  refine ⟨by decide, fun j _ q => ?_⟩
  simp [answerAt, State.reset]

theorem witness_PhasesAgreeWithAtomicCommand :
    busyState.cfg.wellFormed = true ∧ AcceptedNow (encode .bsPack32) busyState ∧
      AcceptedNow (encode .ccSelect) (accept (encode .ccSelect) State.reset) :=
  ⟨by decide, rfl, rfl⟩

theorem witness_CompletionRaisesInterrupt :
    exec .bsPack32 busyState = .next (after (exec .bsPack32 busyState) busyState) ∧
      (after (exec .bsPack32 busyState) busyState).busy = false := ⟨exec_next _ _, by decide⟩

/-- A 4-byte read, a misaligned 8-byte write, an access that begins below the block, and the last
slot. -/
theorem witness_OnlyAlignedAccessesReachRegisters :
    (0xFC < 0 + 256 ∧ 0 < 0xFC + 4 ∧ ¬(4 = 8 ∧ 0 ≤ 0xFC ∧ (0xFC - 0) % 8 = 0) ∧
      (pending [.regRead 0xFC 4] State.reset).inputs = .regRead 0xFC 4 :: []) ∧
    (0x34 < 0 + 256 ∧ 0 < 0x34 + 8 ∧ ¬(8 = 8 ∧ 0 ≤ 0x34 ∧ (0x34 - 0) % 8 = 0) ∧
      (pending [.regWrite 0x34 8 1] State.reset).inputs = .regWrite 0x34 8 1 :: []) ∧
    (0xF8 < 0 + 256 ∧ 0 < 0xF8 + 8 ∧ (8 = 8 ∧ 0 ≤ 0xF8 ∧ (0xF8 - 0) % 8 = 0) ∧
      (pending [.regRead 0xF8 8] State.reset).inputs = .regRead 0xF8 8 :: [] ∧
      (pending [.regWrite 0xF8 8 1] State.reset).inputs = .regWrite 0xF8 8 1 :: []) := by decide

theorem witness_RegisterReadsReturnTheRegister :
    (0 < 32 ∧ (pending [.regRead 0x00 8] State.reset).inputs = .regRead (0 + 8 * 0) 8 :: []) ∧
      (31 < 32 ∧ (pending [.regRead 0xF8 8] State.reset).inputs = .regRead (0 + 8 * 31) 8 :: []) := by
  decide

theorem witness_IdAndCapAreConstant :
    State.reset.cfg.wellFormed = true ∧
      (pending [.regWrite 0x00 8 5] State.reset).inputs = .regWrite 0x00 8 5 :: [] ∧
      step (pending [.regWrite 0x00 8 5] State.reset) =
        .next { State.reset with reply := .accepted } := ⟨by decide, rfl, rfl⟩

theorem witness_StatusWriteAcknowledges :
    (pending [.regWrite 0x20 8 0x6] busyState).inputs = .regWrite (0 + 0x20) 8 0x6 :: [] := by decide

theorem witness_CtrlWriteSetsEnable :
    (pending [.regWrite 0x10 8 0x1] busyState).inputs = .regWrite (0 + 0x10) 8 0x1 :: [] ∧
      (0x1 : Word).getLsbD 1 = false := by decide

theorem witness_BusyWritesOnlySetOverrun :
    (0 < 32 ∧ 0 ≠ 2 ∧ 0 ≠ 4 ∧ busyState.busy = true ∧
      (pending [.regWrite 0x00 8 7] busyState).inputs = .regWrite (0 + 8 * 0) 8 7 :: []) ∧
    (31 < 32 ∧ 31 ≠ 2 ∧ 31 ≠ 4 ∧
      (pending [.regWrite 0xF8 8 7] busyState).inputs = .regWrite (0 + 8 * 31) 8 7 :: []) := by decide

theorem witness_ReadOnlyWritesAreIgnored :
    State.reset.busy = false ∧
      (pending [.regWrite 0x88 8 7] State.reset).inputs = .regWrite (0 + 8 * 17) 8 7 :: [] ∧
      (pending [.regWrite 0xF8 8 7] State.reset).inputs = .regWrite (0 + 8 * 31) 8 7 :: [] := by decide

theorem witness_OperandWritesReadBack :
    Reg.srcAddr ∈ [Reg.srcAddr, .srcLen, .dstAddr, .dstCap, .ch0Addr, .ch1Addr, .ch2Addr, .count,
        .bitOffset, .fieldWidth, .value, .minReg, .bitWidth, .algo] ∧
      Reg.algo ∈ [Reg.srcAddr, .srcLen, .dstAddr, .dstCap, .ch0Addr, .ch1Addr, .ch2Addr, .count,
        .bitOffset, .fieldWidth, .value, .minReg, .bitWidth, .algo] ∧
      State.reset.busy = false ∧
      (pending [.regWrite 0x30 8 7] State.reset).inputs = .regWrite (0 + Reg.srcAddr.offset) 8 7 :: [] ∧
      (pending [.regWrite 0xA0 8 7] State.reset).inputs = .regWrite (0 + Reg.algo.offset) 8 7 :: [] := by
  decide

theorem witness_ResetEffect :
    Memory.wf busyState.mem = true ∧ (pending [.powerOn] busyState).inputs = .powerOn :: [] ∧
      (pending [.regWrite 0x10 8 0x3] busyState).inputs = .regWrite (0 + 0x10) 8 0x3 :: [] ∧
      (0x3 : Word).getLsbD 1 = true ∧
      ∀ c, busyState.engine.mode ≠ .running c .write ∧ busyState.engine.mode ≠ .running c .commit := by
  refine ⟨by decide, by decide, by decide, by decide, fun c => ⟨?_, ?_⟩⟩ <;>
    simp [busyState, accept]

/-- After one reset, a CC.SELECT waits for the answer of its first compressor. -/
def waiting (l : List Input) : State :=
  { small [] 2 2 0 0 with
    inputs := l, resets := 1, cmd := 0x30
    engine :=
      { Engine.idle with
        mode := .running 0x30 .read, fsm := .size, k := 1, input := some [1, 2]
        request := some ⟨.compress, 1, [1, 2]⟩ } }

/-- RS-4 of 95_test_vectors.md with the later request outstanding: a response from before the reset is
discarded, one to the outstanding request is taken. -/
theorem test_late_response_is_discarded :
    step (waiting [.answer 0 (.gives (.ok [7]))]) = .next (waiting []) ∧
      (after (step (waiting [.answer 1 (.gives (.ok [7]))])) State.reset).engine.bestLen = some 1 :=
  ⟨by rfl, by decide⟩

/-- A reset by the host and by the platform, and an answer from before the reset, one with no request
outstanding, and one to the outstanding request. -/
theorem witness_LateResponseIsDiscarded :
    ((waiting [.regWrite 0x10 8 0x2]).inputs = .regWrite (0 + 0x10) 8 0x2 :: [] ∧
        (0x2 : Word).getLsbD 1 = true) ∧
      (waiting [.powerOn]).inputs = .powerOn :: [] ∧
      step State.reset = .next State.reset ∧
      (0 < (waiting [.answer 0 (.gives .fail)]).resets ∧
        (waiting [.answer 0 (.gives .fail)]).inputs = .answer 0 (.gives .fail) :: []) ∧
      (pending [.answer 0 (.gives .fail)] busyState).engine.request = none ∧
      (waiting [.answer 1 (.gives .fail)]).inputs = .answer 1 (.gives .fail) :: [] ∧
      1 = (waiting [.answer 1 (.gives .fail)]).resets := by
  refine ⟨by decide, rfl, rfl, by decide, rfl, rfl, rfl⟩

theorem witness_CommandsWriteOnlyTheirRegisters :
    exec .bsUnpack32 busyState = .next (after (exec .bsUnpack32 busyState) busyState) ∧
      exec .bsWr32 busyState = .next (after (exec .bsWr32 busyState) busyState) ∧
      Instr.bsWr32 ∈ [Instr.bsWr32, .bsWr64, .bsRd32, .bsRd64] :=
  ⟨exec_next _ _, exec_next _ _, by decide⟩

theorem witness_CommandsWriteOnlyTheirOutputs :
    Memory.wf (small [] 0 8 1 8).mem = true ∧
      exec .bsPack32 (small [] 0 8 1 8) =
        .next (after (exec .bsPack32 (small [] 0 8 1 8)) (small [] 0 8 1 8)) :=
  ⟨by decide, exec_next _ _⟩

theorem witness_ErrorsArePrecise :
    exec .bsPack32 busyState = .next (after (exec .bsPack32 busyState) busyState) ∧
      (after (exec .bsPack32 busyState) busyState).busy = false ∧
      (after (exec .bsPack32 busyState) busyState).err ≠ 0 ∧
      (after (exec .bsPack32 busyState) busyState).errSub ≠ 0x0041 ∧
      (after (exec .bsPack32 busyState) busyState).errSub.toNat / 256 ≠ 3 :=
  ⟨exec_next _ _, by decide, by decide, by decide, by decide⟩

theorem witness_OutcomeCodesAreTheTables :
    busyState.cfg.wellFormed = true ∧
      exec .bsPack32 busyState = .next (after (exec .bsPack32 busyState) busyState) ∧
      (after (exec .bsPack32 busyState) busyState).busy = false :=
  ⟨by decide, exec_next _ _, by decide⟩

/-- `small` with the bytes of a region refused. -/
def refusing (b : Buf) (s : State) : State := { s with cfg := { s.cfg with refused := [b] } }

theorem witness_BusErrorReportsARefusedByte :
    ((refusing ⟨0x101, 1⟩ (small [] 0 8 1 8)).cfg.wellFormed = true ∧
      exec .bsPack32 (refusing ⟨0x101, 1⟩ (small [] 0 8 1 8)) =
        .next (after (exec .bsPack32 (refusing ⟨0x101, 1⟩ (small [] 0 8 1 8))) busyState) ∧
      (after (exec .bsPack32 (refusing ⟨0x101, 1⟩ (small [] 0 8 1 8))) busyState).busy = false ∧
      (after (exec .bsPack32 (refusing ⟨0x101, 1⟩ (small [] 0 8 1 8))) busyState).err = 5) ∧
    ((after (exec .bsPack32 busyState) busyState).busy = false ∧
      (after (exec .bsPack32 busyState) busyState).err ≠ 5) :=
  ⟨⟨by decide, rfl, by decide, by decide⟩, by decide, by decide⟩

theorem witness_OnlyNamedBuffersMatter :
    Memory.wf (small [] 0 8 1 8).mem = true ∧ Memory.wf [(0x900, 1)] = true ∧
      (∀ b ∈ namedBy .bsPack32 (small [] 0 8 1 8), ∀ a, hasByte b a = true →
        readByte [(0x900, 1)] a = readByte (small [] 0 8 1 8).mem a) ∧
      exec .bsPack32 (small [] 0 8 1 8) =
        .next (after (exec .bsPack32 (small [] 0 8 1 8)) busyState) ∧
      exec .bsPack32 { small [] 0 8 1 8 with mem := [(0x900, 1)] } =
        .next (after (exec .bsPack32 { small [] 0 8 1 8 with mem := [(0x900, 1)] }) busyState) := by
  refine ⟨by decide, by decide, ?_, rfl, rfl⟩
  intro b hb a ha
  have h : a < 0x900 := by
    have hb' : b = ⟨0x100, 4⟩ ∨ b = ⟨0x200, 8⟩ := by
      simpa [namedBy, unitOf, bsPackRule, srcArray, dstBuf, small, wBytes] using hb
    rcases hb' with rfl | rfl <;> simp [hasByte] at ha <;> omega
  have h' : ¬(0x900 = a) := by omega
  simp [readByte, small, h']

/-! ### Witnesses for the commands' results -/

/-- FIELD_WIDTH at its least and its greatest, a spanning field, both widths. -/
theorem witness_BsWrOrsTheField :
    Memory.wf (small [] 0 16 0 1).mem = true ∧ BsWrReady .w32 (small [] 0 16 0 1) ∧
      BsWrReady .w32 { small [] 0 16 0 32 with bitOffset := 96 } ∧
      BsWrReady .w64 { small [] 0 16 0 64 with bitOffset := 64 } ∧
      BsWrReady .w64 { small [] 0 16 0 8 with bitOffset := 60 } := by
  refine ⟨by decide, ?_, ?_, ?_, ?_⟩ <;>
    exact ⟨⟨by decide, by decide, by decide, by decide, by decide⟩, allAdmitted_all rfl _, by decide⟩

theorem witness_BsRdReadsTheField :
    BsRdReady .w32 { small [] 16 0 0 32 with bitOffset := 96 } ∧
      BsRdReady .w64 { small [] 16 0 0 8 with bitOffset := 60 } := by
  refine ⟨?_, ?_⟩ <;>
    exact ⟨⟨by decide, by decide, by decide, by decide, by decide⟩, allAdmitted_all rfl _, by decide⟩

/-- The VALIDATE checks of BS.PACK and BS.UNPACK on one element, at the greatest field width. -/
theorem legal_bsPack : BsPackLegal .w32 (small [] 4 4 1 32) ∧ BsPackLegal .w64 (small [] 8 8 1 64) := by
  refine ⟨?_, ?_⟩ <;>
    exact ⟨by decide, by decide, by decide, by decide, by decide, by decide, by decide, by decide⟩

theorem legal_bsUnpack :
    BsUnpackLegal .w32 (small [] 4 4 1 32) ∧ BsUnpackLegal .w64 (small [] 8 8 1 64) := by
  refine ⟨?_, ?_⟩ <;>
    exact ⟨by decide, by decide, by decide, by decide, by decide, by decide, by decide, by decide,
      by decide⟩

theorem witness_BsPackPacksTheFields :
    Memory.wf (small [] 4 4 1 32).mem = true ∧ BsPackReady .w32 (small [] 4 4 1 32) ∧
      BsPackReady .w64 (small [] 8 8 1 64) :=
  ⟨by decide, ⟨legal_bsPack.1, admitted_all rfl _, admitted_all rfl _, by decide⟩,
    ⟨legal_bsPack.2, admitted_all rfl _, admitted_all rfl _, by decide⟩⟩

theorem witness_BsUnpackUnpacksTheFields :
    Memory.wf (small [] 4 4 1 32).mem = true ∧ BsUnpackReady .w32 (small [] 4 4 1 32) ∧
      BsUnpackReady .w64 (small [] 8 8 1 64) :=
  ⟨by decide, ⟨legal_bsUnpack.1, admitted_all rfl _, admitted_all rfl _, by decide⟩,
    ⟨legal_bsUnpack.2, admitted_all rfl _, admitted_all rfl _, by decide⟩⟩

/-- Each clause for BS.WR, then each for BS.RD: width 0 and W + 1, an address and a length off by one,
a buffer one word past the space, an offset one bit too far. -/
theorem witness_FieldAccessErrorOrder :
    (¬WidthOk .w32 (small [] 0 8 0 0) ∧ ¬WidthOk .w32 (small [] 0 8 0 33)) ∧
    (WidthOk .w32 (small [] 0 8 0 8) ∧ ¬Aligned .w32 { small [] 0 8 0 8 with dstAddr := 0x201 }.dstAddr ∧
      ¬Aligned .w32 { small [] 8 0 0 8 with srcAddr := 0x101 }.srcAddr) ∧
    (Aligned .w32 (small [] 0 7 0 8).dstAddr ∧ ¬Aligned .w32 (small [] 0 7 0 8).dstCap ∧
      Aligned .w32 (small [] 7 0 0 8).srcAddr ∧ ¬Aligned .w32 (small [] 7 0 0 8).srcLen) ∧
    (Aligned .w32 (0xFFFFFFFFFFFFFFFC : Word) ∧
      ¬InSpace State.reset (dstBuf { small [] 0 8 0 8 with dstAddr := 0xFFFFFFFFFFFFFFFC }) ∧
      ¬InSpace State.reset (srcBuf { small [] 8 0 0 8 with srcAddr := 0xFFFFFFFFFFFFFFFC })) ∧
    (Aligned .w32 (small [] 8 8 0 8).dstCap ∧ InSpace State.reset (dstBuf (small [] 8 8 0 8)) ∧
      InSpace State.reset (srcBuf (small [] 8 8 0 8)) ∧ 8 * (8 : Word).toNat < (57 : Word).toNat + (8 : Word).toNat) := by
  decide

/-- Each clause, at its boundary: width 0; count 0 and COUNT_MAX + 1; an address off by one; an array one
word past the space; overlap by one word; a capacity and a packed length one byte off. -/
theorem witness_ArrayPackErrorOrder :
    (¬WidthOk .w32 (small [] 4 4 1 0)) ∧
    (WidthOk .w32 (small [] 4 4 0 8) ∧ ¬CountOk (small [] 4 4 0 8) ∧
      ¬CountOk (small [] 4 4 0x80000000 8)) ∧
    (WidthOk .w32 (small [] 4 4 1 8) ∧ CountOk (small [] 4 4 1 8) ∧
      ¬(Aligned .w32 (0x101 : Word) ∧ Aligned .w32 (0x200 : Word))) ∧
    (Aligned .w32 (0xFFFFFFFFFFFFFFFC : Word) ∧ Aligned .w32 (0x200 : Word) ∧
      ¬(InSpace State.reset (srcArray .w32 { small [] 8 4 2 8 with srcAddr := 0xFFFFFFFFFFFFFFFC }) ∧
        InSpace State.reset (dstBuf (small [] 8 4 2 8))) ∧
      ¬(InSpace State.reset (srcBuf { small [] 8 4 2 8 with srcAddr := 0xFFFFFFFFFFFFFFFC }) ∧
        InSpace State.reset (dstBuf (small [] 8 4 2 8)))) ∧
    (InSpace State.reset (srcArray .w32 (small [] 4 4 1 8)) ∧
      InSpace State.reset (srcBuf (small [] 4 4 1 8)) ∧ InSpace State.reset (dstBuf (small [] 4 4 1 8)) ∧
      ¬Apart (srcArray .w32 { small [] 8 4 2 8 with dstAddr := 0x104 })
        (dstBuf { small [] 8 4 2 8 with dstAddr := 0x104 }) ∧
      ¬Apart (srcBuf { small [] 8 4 2 8 with dstAddr := 0x104 })
        (dstBuf { small [] 8 4 2 8 with dstAddr := 0x104 })) ∧
    (Apart (srcArray .w32 (small [] 4 3 1 8)) (dstBuf (small [] 4 3 1 8)) ∧
      (3 : Word).toNat < packedSize .w32 1 8) ∧
    (Apart (srcBuf (small [] 3 4 1 8)) (dstBuf (small [] 3 4 1 8)) ∧
      (3 : Word).toNat ≠ packedSize .w32 1 8) ∧
    ((4 : Word).toNat = packedSize .w32 1 8 ∧ (3 : Word).toNat < 1 * wBytes .w32) := by decide

/-- One state on which the VALIDATE checks of every command of width 32 pass: one element of 32 bits. -/
def oneElement : State := { small [] 4 4 1 32 with bitWidth := 32 }

theorem legal_oneElement :
    BsWrLegal .w32 oneElement ∧ BsRdLegal .w32 oneElement ∧ BsPackLegal .w32 oneElement ∧
      BsUnpackLegal .w32 oneElement ∧ DdEncLegal .w32 oneElement ∧ DdDecLegal .w32 32 oneElement ∧
      FsSplitLegal .w32 oneElement ∧ FsRecombLegal .w32 oneElement ∧ CcBuffersOk oneElement :=
  ⟨⟨by decide, by decide, by decide, by decide, by decide⟩,
    ⟨by decide, by decide, by decide, by decide, by decide⟩,
    ⟨by decide, by decide, by decide, by decide, by decide, by decide, by decide, by decide⟩,
    ⟨by decide, by decide, by decide, by decide, by decide, by decide, by decide, by decide, by decide⟩,
    ⟨by decide, by decide, by decide, by decide, by decide, by decide⟩,
    ⟨by decide, by decide, by decide, by decide, by decide, by decide, by decide, by decide, by decide,
      by decide⟩,
    ⟨by decide, by decide, by decide, by decide⟩, ⟨by decide, by decide, by decide, by decide, by decide⟩,
    ⟨by decide, by decide, by decide⟩⟩

/-- The last byte of the source, of the field's word and of a channel refused; every clause. -/
theorem witness_RefusedSourceByteIsBusRead :
    (refusing ⟨0x103, 1⟩ oneElement).cfg.wellFormed = true ∧
      (BsWrLegal .w32 (refusing ⟨0x203, 1⟩ oneElement) ∧
        ¬AllAdmitted (refusing ⟨0x203, 1⟩ oneElement).cfg
          (bsWrWords .w32 (refusing ⟨0x203, 1⟩ oneElement))) ∧
      (BsRdLegal .w32 (refusing ⟨0x103, 1⟩ oneElement) ∧
        ¬AllAdmitted (refusing ⟨0x103, 1⟩ oneElement).cfg
          (bsRdWords .w32 (refusing ⟨0x103, 1⟩ oneElement))) ∧
      (BsPackLegal .w32 (refusing ⟨0x103, 1⟩ oneElement) ∧
        BsUnpackLegal .w32 (refusing ⟨0x103, 1⟩ oneElement) ∧
        DdEncLegal .w32 (refusing ⟨0x103, 1⟩ oneElement) ∧
        DdDecLegal .w32 32 (refusing ⟨0x103, 1⟩ oneElement) ∧
        FsSplitLegal .w32 (refusing ⟨0x103, 1⟩ oneElement) ∧
        CcBuffersOk (refusing ⟨0x103, 1⟩ oneElement) ∧
        ¬Admitted (refusing ⟨0x103, 1⟩ oneElement).cfg
          (srcArray .w32 (refusing ⟨0x103, 1⟩ oneElement)) ∧
        ¬Admitted (refusing ⟨0x103, 1⟩ oneElement).cfg (srcBuf (refusing ⟨0x103, 1⟩ oneElement)) ∧
        oneElement.algo.toNat = 0 ∧ oneElement.srcLen.toNat ≤ oneElement.dstCap.toNat) ∧
      (FsRecombLegal .w32 (refusing ⟨0x383, 1⟩ oneElement) ∧
        ¬AllAdmitted (refusing ⟨0x383, 1⟩ oneElement).cfg
          (channelArrays .w32 (refusing ⟨0x383, 1⟩ oneElement))) := by
  obtain ⟨h1, h2, h3, h4, h5, h6, h7, h8, h9⟩ := legal_oneElement
  exact ⟨by decide,
    ⟨h1, not_allAdmitted (b := ⟨0x200, 4⟩) (by decide)
      (not_admitted 0x203 (by decide) (by decide) (by decide))⟩,
    ⟨h2, not_allAdmitted (b := ⟨0x100, 4⟩) (by decide)
      (not_admitted 0x103 (by decide) (by decide) (by decide))⟩,
    ⟨h3, h4, h5, h6, h7, h9, not_admitted 0x103 (by decide) (by decide) (by decide),
      not_admitted 0x103 (by decide) (by decide) (by decide), by decide, by decide⟩,
    ⟨h8, not_allAdmitted (b := ⟨0x380, 4⟩) (by decide)
      (not_admitted 0x383 (by decide) (by decide) (by decide))⟩⟩

/-- The clauses of BS.PACK, BS.UNPACK, DD.DEC, FS.SPLIT, FS.RECOMB and CC.EXPAND with tag 0, with the last
byte of the destination, or of the last channel, refused. -/
theorem witness_RefusedOutputByteIsBusWrite :
    (Memory.wf (refusing ⟨0x203, 1⟩ oneElement).mem = true ∧
      (refusing ⟨0x203, 1⟩ oneElement).cfg.wellFormed = true ∧
      Admitted (refusing ⟨0x203, 1⟩ oneElement).cfg
        (srcArray .w32 (refusing ⟨0x203, 1⟩ oneElement)) ∧
      Admitted (refusing ⟨0x203, 1⟩ oneElement).cfg (srcBuf (refusing ⟨0x203, 1⟩ oneElement)) ∧
      BsPackLegal .w32 (refusing ⟨0x203, 1⟩ oneElement) ∧
      ¬Admitted (refusing ⟨0x203, 1⟩ oneElement).cfg
        (packedPart .w32 (refusing ⟨0x203, 1⟩ oneElement)) ∧
      BsUnpackLegal .w32 (refusing ⟨0x203, 1⟩ oneElement) ∧
      DdDecLegal .w32 32 (refusing ⟨0x203, 1⟩ oneElement) ∧
      ¬Admitted (refusing ⟨0x203, 1⟩ oneElement).cfg
        (elementsPart .w32 (refusing ⟨0x203, 1⟩ oneElement)) ∧
      CcBuffersOk (refusing ⟨0x203, 1⟩ oneElement) ∧ oneElement.algo.toNat = 0 ∧
      oneElement.srcLen.toNat ≤ oneElement.dstCap.toNat ∧
      ¬Admitted (refusing ⟨0x203, 1⟩ oneElement).cfg (dstPart oneElement oneElement.srcLen.toNat)) ∧
    (FsSplitLegal .w32 (refusing ⟨0x383, 1⟩ oneElement) ∧
      Admitted (refusing ⟨0x383, 1⟩ oneElement).cfg
        (srcArray .w32 (refusing ⟨0x383, 1⟩ oneElement)) ∧
      ¬AllAdmitted (refusing ⟨0x383, 1⟩ oneElement).cfg
        (channelArrays .w32 (refusing ⟨0x383, 1⟩ oneElement))) ∧
    (FsRecombReads .w32 (refusing ⟨0x403, 1⟩ { oneElement with dstAddr := 0x400 }) ∧
      ChannelsFit .w32 (refusing ⟨0x403, 1⟩ { oneElement with dstAddr := 0x400 }) ∧
      ¬Admitted (refusing ⟨0x403, 1⟩ oneElement).cfg
        (elementsPart .w32 (refusing ⟨0x403, 1⟩ { oneElement with dstAddr := 0x400 }))) := by
  obtain ⟨h1, h2, h3, h4, h5, h6, h7, h8, h9⟩ := legal_oneElement
  refine ⟨⟨by decide, by decide, admitted_below rfl (by decide), admitted_below rfl (by decide), h3,
    not_admitted 0x203 (by decide) (by decide) (by decide), h4, h6,
    not_admitted 0x203 (by decide) (by decide) (by decide), h9, by decide, by decide,
    not_admitted 0x203 (by decide) (by decide) (by decide)⟩,
    ⟨h7, admitted_below rfl (by decide), not_allAdmitted (b := ⟨0x380, 4⟩) (by decide)
      (not_admitted 0x383 (by decide) (by decide) (by decide))⟩,
    ⟨⟨⟨by decide, by decide, by decide, by decide, by decide⟩, ?_⟩, by unfold ChannelsFit; decide,
      not_admitted 0x403 (by decide) (by decide) (by decide)⟩⟩
  intro b hb
  have hb' : b = ⟨0x300, 4⟩ ∨ b = ⟨0x340, 4⟩ ∨ b = ⟨0x380, 4⟩ := by
    simpa [channelArrays, ch0Array, ch1Array, ch2Array, refusing, oneElement, small, wBytes] using hb
  rcases hb' with rfl | rfl | rfl <;> exact admitted_below rfl (by decide)

/-- A buffer of zeros has only zero bits. -/
theorem bufferBit_nil (addr p : Nat) : bufferBit [] addr p = false := by
  simp [bufferBit, readByte, unlistedByte]

/-- The state in which a command's output is decoded: its output is the source, the destination is at
0x400. -/
def decodeFrom (cap : Word) (s t : State) : State :=
  { t with srcAddr := s.dstAddr, srcLen := t.outLen, dstAddr := 0x400, dstCap := cap }

/-- The state in which the field of the next witness is read back. -/
def readBackState : State :=
  decodeFrom 0 (small [] 0 8 0 8)
    { after (exec .bsWr32 { small [] 0 8 0 8 with bitOffset := 28, value := 0xFF }) busyState with
      outLen := 8 }

/-- BS.WR of the greatest value of an 8-bit field that spans two words; BS.PACK and BS.UNPACK of two
12-bit elements. -/
theorem witness_BitRoundTrip :
    (isRaced [dstBuf { small [] 0 8 0 8 with bitOffset := 28, value := 0xFF }]
        { small [] 0 8 0 8 with bitOffset := 28, value := 0xFF } = false ∧
      exec .bsWr32 { small [] 0 8 0 8 with bitOffset := 28, value := 0xFF } =
        .next (after (exec .bsWr32 { small [] 0 8 0 8 with bitOffset := 28, value := 0xFF }) busyState) ∧
      (after (exec .bsWr32 { small [] 0 8 0 8 with bitOffset := 28, value := 0xFF }) busyState).err = 0 ∧
      (0xFF : Word).toNat < 2 ^ (8 : Word).toNat ∧
      (∀ p, (28 : Word).toNat ≤ p → p < (28 : Word).toNat + (8 : Word).toNat →
        bufferBit [] (0x200 : Word).toNat p = false) ∧
      (readBackState.bitOffset = 28 ∧ readBackState.fieldWidth = 8 ∧ readBackState.srcAddr = 0x200 ∧
        readBackState.srcLen = 8 ∧ readBackState.cfg = Params.default ∧
        isRaced [srcBuf readBackState] readBackState = false)) ∧
    (isRaced [srcArray .w32 (small [] 0 4 2 12), dstBuf (small [] 0 4 2 12)] (small [] 0 4 2 12) = false ∧
      (after (exec .bsPack32 (small [] 0 4 2 12)) busyState).err = 0 ∧
      DestinationOk .w32
        (decodeFrom 8 (small [] 0 4 2 12) (after (exec .bsPack32 (small [] 0 4 2 12)) busyState)) ∧
      Apart
        (srcBuf (decodeFrom 8 (small [] 0 4 2 12) (after (exec .bsPack32 (small [] 0 4 2 12)) busyState)))
        (dstBuf (decodeFrom 8 (small [] 0 4 2 12) (after (exec .bsPack32 (small [] 0 4 2 12)) busyState))) ∧
      isRaced
        [srcBuf (decodeFrom 8 (small [] 0 4 2 12) (after (exec .bsPack32 (small [] 0 4 2 12)) busyState)),
          dstBuf (decodeFrom 8 (small [] 0 4 2 12) (after (exec .bsPack32 (small [] 0 4 2 12)) busyState))]
        (decodeFrom 8 (small [] 0 4 2 12) (after (exec .bsPack32 (small [] 0 4 2 12)) busyState)) =
        false) := by
  refine ⟨⟨by decide, rfl, by decide, by decide, fun p _ _ => bufferBit_nil _ p, by decide⟩, by decide, by decide,
    ⟨by decide, by decide, by decide, admitted_all rfl _⟩, by decide, by decide⟩

/-- The elements -3 and 5 of DD-2, with their destination at the least capacity. -/
def deltaState (cap : Word) : State := small (memOf 4 0x100 [0xFFFFFFFD, 5]) 0 cap 2 0

/-- The VALIDATE checks of DD.ENC pass on `deltaState`. -/
theorem legal_delta (cap : Word) (h : InSpace State.reset ⟨0x200, cap.toNat⟩) :
    DdEncLegal .w32 (deltaState cap) :=
  ⟨show CountOk (deltaState 0) by decide, show Aligned .w32 (0x100 : Word) by decide,
    show Aligned .w32 (0x200 : Word) by decide,
    show InSpace State.reset ⟨0x100, 8⟩ by decide, h, .inr (.inr (.inl (show 0x108 ≤ 0x200 by decide)))⟩

/-- The least and greatest element of `deltaState` and the width of their difference. -/
theorem range_delta (cap : Word) : DeltaRange .w32 (deltaState cap) (-3) 5 4 := by
  refine ⟨show LeastOf (fun i => signedOf 32 (element .w32 (deltaState 0).mem 0x100 i)) 2 (-3) from
      ⟨⟨0, by decide, by decide⟩, by decide⟩,
    show GreatestOf (fun i => signedOf 32 (element .w32 (deltaState 0).mem 0x100 i)) 2 5 from
      ⟨⟨1, by decide, by decide⟩, by decide⟩, by decide, ?_⟩
  intro k hk
  by_contra hlt
  have : k = 0 ∨ k = 1 ∨ k = 2 ∨ k = 3 := by omega
  rcases this with rfl | rfl | rfl | rfl <;> simp at hk

theorem witness_DdEncEncodes :
    Memory.wf (deltaState 4).mem = true ∧ DdEncReady .w32 (deltaState 4) ∧
      DeltaRange .w32 (deltaState 4) (-3) 5 4 ∧ packedSize .w32 2 4 ≤ (4 : Word).toNat ∧
      Admitted (deltaState 4).cfg (dstPart (deltaState 4) (packedSize .w32 2 4)) :=
  ⟨by decide, ⟨legal_delta 4 (by decide), admitted_all rfl _, by decide⟩, range_delta 4, by decide,
    admitted_all rfl _⟩

theorem witness_DdEncCapacity :
    DdEncReady .w32 (deltaState 3) ∧ DeltaRange .w32 (deltaState 3) (-3) 5 4 ∧
      (3 : Word).toNat < packedSize .w32 2 4 :=
  ⟨⟨legal_delta 3 (by decide), admitted_all rfl _, by decide⟩, range_delta 3, by decide⟩

/-- The clause of DD.ENC, with the last payload byte refused. -/
theorem witness_RefusedOutputByteIsBusWrite_ddEnc :
    DdEncLegal .w32 (refusing ⟨0x203, 1⟩ (deltaState 4)) ∧
      Admitted (refusing ⟨0x203, 1⟩ (deltaState 4)).cfg
        (srcArray .w32 (refusing ⟨0x203, 1⟩ (deltaState 4))) ∧
      DeltaRange .w32 (refusing ⟨0x203, 1⟩ (deltaState 4)) (-3) 5 4 ∧
      packedSize .w32 2 4 ≤ (4 : Word).toNat ∧
      ¬Admitted (refusing ⟨0x203, 1⟩ (deltaState 4)).cfg
        (dstPart (deltaState 4) (packedSize .w32 2 4)) :=
  ⟨legal_delta 4 (by decide), admitted_below rfl (by decide), range_delta 4, by decide,
    not_admitted 0x203 (by decide) (by decide) (by decide)⟩

/-- The header widths 0 and W. -/
theorem witness_DdDecDecodes :
    Memory.wf (small [] 0 4 1 0).mem = true ∧ DdDecReady .w32 0 (small [] 0 4 1 0) ∧
      DdDecReady .w64 64 { small [] 8 8 1 0 with bitWidth := 64 } := by
  refine ⟨by decide, ?_, ?_⟩ <;>
    exact ⟨⟨by decide, by decide, by decide, by decide, by decide, by decide, by decide, by decide,
      by decide, by decide⟩, admitted_all rfl _, admitted_all rfl _, by decide⟩

/-- Each clause at its boundary: widths −1 and W + 1, count 0, a length and an address off by one, a buffer
one byte past the space, overlap by one word, a capacity one byte short. -/
theorem witness_DdDecHeaderErrorOrder :
    (0xFFFFFFFFFFFFFFFF : Word).toInt < 0 ∧ (wBits .w32 : Int) < (33 : Word).toInt ∧
      (0 ≤ (32 : Word).toInt ∧ (32 : Word).toInt ≤ wBits .w32 ∧ ¬CountOk (small [] 0 4 0 0)) ∧
      (CountOk (small [] 5 4 1 0) ∧
        (5 : Word).toNat ≠ packedSize .w32 1 (32 : Word).toInt.toNat) ∧
      (4 : Word).toNat = packedSize .w32 1 (32 : Word).toInt.toNat ∧
      ¬(Aligned .w32 (0x101 : Word) ∧ Aligned .w32 (0x200 : Word)) ∧
      (Aligned .w32 (0xFFFFFFFFFFFFFFFC : Word) ∧ Aligned .w32 (0x100 : Word) ∧
        ¬(InSpace State.reset (srcBuf (small [] 4 5 1 0)) ∧
          InSpace State.reset (dstBuf { small [] 4 5 1 0 with dstAddr := 0xFFFFFFFFFFFFFFFC }))) ∧
      (InSpace State.reset (srcBuf (small [] 4 3 1 0)) ∧ InSpace State.reset (dstBuf (small [] 4 3 1 0)) ∧
        ¬Apart (srcBuf { small [] 8 4 2 0 with dstAddr := 0x104 })
          (dstBuf { small [] 8 4 2 0 with dstAddr := 0x104 }) ∧
        Apart (srcBuf (small [] 4 3 1 0)) (dstBuf (small [] 4 3 1 0)) ∧
        (3 : Word).toNat < 1 * wBytes .w32) := by decide

theorem witness_DdEncErrorOrder :
    ¬CountOk (small [] 0 4 0 0) ∧
      (CountOk (small [] 0 4 0x7FFFFFFF 0) ∧
        ¬(Aligned .w32 (0x101 : Word) ∧ Aligned .w32 (0x200 : Word))) ∧
      (Aligned .w32 (0xFFFFFFFFFFFFFFFC : Word) ∧ Aligned .w32 (0x200 : Word) ∧
        ¬(InSpace State.reset
            (srcArray .w32 { small [] 0 4 2 0 with srcAddr := 0xFFFFFFFFFFFFFFFC }) ∧
          InSpace State.reset (dstBuf (small [] 0 4 2 0)))) ∧
      (InSpace State.reset (srcArray .w32 { small [] 0 4 2 0 with dstAddr := 0x104 }) ∧
        InSpace State.reset (dstBuf { small [] 0 4 2 0 with dstAddr := 0x104 }) ∧
        ¬Apart (srcArray .w32 { small [] 0 4 2 0 with dstAddr := 0x104 })
          (dstBuf { small [] 0 4 2 0 with dstAddr := 0x104 })) := by decide

theorem witness_DeltaRoundTrip :
    Memory.wf (deltaState 4).mem = true ∧
      isRaced [srcArray .w32 (deltaState 4), dstBuf (deltaState 4)] (deltaState 4) = false ∧
      exec .ddEnc32 (deltaState 4) = .next (after (exec .ddEnc32 (deltaState 4)) busyState) ∧
      (after (exec .ddEnc32 (deltaState 4)) busyState).err = 0 ∧
      DestinationOk .w32 (decodeFrom 8 (deltaState 4) (after (exec .ddEnc32 (deltaState 4)) busyState)) ∧
      Apart (srcBuf (decodeFrom 8 (deltaState 4) (after (exec .ddEnc32 (deltaState 4)) busyState)))
        (dstBuf (decodeFrom 8 (deltaState 4) (after (exec .ddEnc32 (deltaState 4)) busyState))) ∧
      isRaced
        [srcBuf (decodeFrom 8 (deltaState 4) (after (exec .ddEnc32 (deltaState 4)) busyState)),
          dstBuf (decodeFrom 8 (deltaState 4) (after (exec .ddEnc32 (deltaState 4)) busyState))]
        (decodeFrom 8 (deltaState 4) (after (exec .ddEnc32 (deltaState 4)) busyState)) = false :=
  ⟨by decide, by decide, rfl, by decide, ⟨by decide, by decide, by decide, admitted_all rfl _⟩,
    by decide, by decide⟩

theorem witness_FsSplitSplits :
    Memory.wf (small [] 0 0 1 0).mem = true ∧ FsSplitReady .w32 (small [] 0 0 16 0) ∧
      FsSplitReady .w64 (small [] 0 0 8 0) := by
  refine ⟨by decide, ?_, ?_⟩ <;>
    exact ⟨⟨by decide, by decide, by decide, by decide⟩, admitted_all rfl _, allAdmitted_all rfl _,
      by decide⟩

/-- Channels whose elements are the greatest that fit: sign 1, exponent 0xFF, significand 0x7FFFFF. -/
def channels (sg : Nat) : State :=
  small (writeBytes (writeBytes (memOf 4 0x300 [sg]) 0x340 (leBytes 4 0xFF)) 0x380
    (leBytes 4 0x7FFFFF)) 0 4 1 0

theorem reads_channels : FsRecombReads .w32 (channels 1) ∧ FsRecombReads .w32 (channels 2) := by
  refine ⟨?_, ?_⟩ <;>
    exact ⟨⟨by decide, by decide, by decide, by decide, by decide⟩, allAdmitted_all rfl _⟩

theorem witness_FsRecombRebuilds :
    Memory.wf (channels 1).mem = true ∧ FsRecombReady .w32 (channels 1) :=
  ⟨by decide, reads_channels.1, by unfold ChannelsFit; decide, admitted_all rfl _, by decide⟩

/-- One more than the greatest sign. -/
theorem witness_FsRecombRejectsWideElements :
    FsRecombReads .w32 (channels 2) ∧ ¬ChannelsFit .w32 (channels 2) :=
  ⟨reads_channels.2, by unfold ChannelsFit; decide⟩

/-- Each clause at its boundary: counts 0 and COUNT_MAX + 1, an address off by two, an array one word past
the space, two arrays that share one word; for FS.SPLIT. -/
theorem witness_SplitterErrorOrder :
    (¬CountOk (small [] 0 0 0 0) ∧ ¬CountOk (small [] 0 0 0x80000000 0) ∧
      CountOk (small [] 0 0 0x7FFFFFFF 0)) ∧
      ¬FsSplitAligned .w32 { small [] 0 4 1 0 with ch0Addr := 0x302 } ∧
      (FsSplitAligned .w32 { small [] 0 4 2 0 with ch2Addr := 0xFFFFFFFFFFFFFFFC } ∧
        ¬FsSplitInSpace .w32 { small [] 0 4 2 0 with ch2Addr := 0xFFFFFFFFFFFFFFFC }) ∧
      FsSplitAligned .w32 { small [] 0 4 2 0 with ch1Addr := 0x304 } ∧
        FsSplitInSpace .w32 { small [] 0 4 2 0 with ch1Addr := 0x304 } ∧
        ¬FsSplitApart .w32 { small [] 0 4 2 0 with ch1Addr := 0x304 } :=
  ⟨by decide, by decide, ⟨by decide, by decide⟩, by decide, by decide, by decide⟩

/-- The same for FS.RECOMB, and a destination one byte short. -/
theorem witness_SplitterErrorOrder_recomb :
    ¬FsRecombAligned .w32 { small [] 0 4 1 0 with ch0Addr := 0x302 } ∧
      (FsRecombAligned .w32 { small [] 0 4 2 0 with ch2Addr := 0xFFFFFFFFFFFFFFFC } ∧
        ¬FsRecombInSpace .w32 { small [] 0 4 2 0 with ch2Addr := 0xFFFFFFFFFFFFFFFC }) ∧
      (FsRecombAligned .w32 { small [] 0 4 2 0 with dstAddr := 0x384 } ∧
        FsRecombInSpace .w32 { small [] 0 4 2 0 with dstAddr := 0x384 } ∧
        ¬FsRecombApart .w32 { small [] 0 4 2 0 with dstAddr := 0x384 }) ∧
      CountOk (small [] 0 3 1 0) ∧ FsRecombAligned .w32 (small [] 0 3 1 0) ∧
        FsRecombInSpace .w32 (small [] 0 3 1 0) ∧ FsRecombApart .w32 (small [] 0 3 1 0) ∧
        (3 : Word).toNat < 1 * wBytes .w32 :=
  ⟨by decide, ⟨by decide, by decide⟩, ⟨by decide, by decide, by decide⟩, by decide, by decide, by decide,
    by decide, by decide⟩

/-- 1.0 and -2.0 of FS-2. -/
def floatState : State := small (memOf 4 0x100 [0x3F800000, 0xC0000000]) 0 0 2 0

/-- The state in which the channels of `floatState` are recombined. -/
def recombState : State :=
  { after (exec .fsSplit32 floatState) busyState with dstAddr := 0x400, dstCap := 8 }

theorem witness_FloatRoundTrip :
    Memory.wf floatState.mem = true ∧
      isRaced [srcArray .w32 floatState, ch0Array .w32 floatState, ch1Array .w32 floatState,
        ch2Array .w32 floatState] floatState = false ∧
      exec .fsSplit32 floatState = .next (after (exec .fsSplit32 floatState) busyState) ∧
      (after (exec .fsSplit32 floatState) busyState).err = 0 ∧ DestinationOk .w32 recombState ∧
      Apart (ch0Array .w32 recombState) (dstBuf recombState) ∧
      Apart (ch1Array .w32 recombState) (dstBuf recombState) ∧
      Apart (ch2Array .w32 recombState) (dstBuf recombState) ∧
      isRaced [ch0Array .w32 recombState, ch1Array .w32 recombState, ch2Array .w32 recombState,
        dstBuf recombState] recombState = false :=
  ⟨by decide, by decide, rfl, by decide, ⟨by decide, by decide, by decide, admitted_all rfl _⟩,
    by decide, by decide, by decide, by decide⟩

/-! ### Witnesses for the channel compressor, the other agents and the invariant -/

/-- Two input bytes 1 and 2, a destination of the given capacity, and a service that answers as listed. -/
def selectState (cap : Word) (l : List Answer) : State :=
  { small (writeBytes [] 0x100 [1, 2]) 2 cap 0 0 with service := l }

theorem buffers_select (l : List Answer) :
    CcBuffersOk (selectState 2 l) ∧ CcBuffersOk (selectState 1 l) :=
  ⟨⟨show InSpace State.reset ⟨0x100, 2⟩ by decide, show InSpace State.reset ⟨0x200, 2⟩ by decide,
    show Apart ⟨0x100, 2⟩ ⟨0x200, 2⟩ by decide⟩,
    ⟨show InSpace State.reset ⟨0x100, 2⟩ by decide, show InSpace State.reset ⟨0x200, 1⟩ by decide,
      show Apart ⟨0x100, 2⟩ ⟨0x200, 1⟩ by decide⟩⟩

/-- The sizes 3 and 2 that the two compressors answer. -/
def sizes (k : Nat) : List Byte := if k = 1 then [7, 7, 7] else [8, 9]

/-- A service that answers `sizes` in SIZE, and then as listed. -/
def sizesThen (l : List Answer) : List Answer := .gives (.ok [7, 7, 7]) :: .gives (.ok [8, 9]) :: l

/-- The last two input bytes and all below them admitted: CC.SELECT selects the second compressor. -/
theorem selects_sizes {s : State} (l : List Answer) (hw : s.cfg.wellFormed = true)
    (hn : s.cfg.nAlgo = 2) (hs : s.service = sizesThen l) (hb : CcBuffersOk s) (h0 : s.srcLen = 2)
    (ha : Admitted s.cfg (srcBuf s)) : Selects s sizes 2 := by
  refine ⟨hw, hb, by rw [h0]; decide, ha, ?_, by decide, by omega, ?_, ?_⟩ <;> intro k h1 h2
  · have h : k = 1 ∨ k = 2 := by omega
    rcases h with rfl | rfl <;> simp only [answerAt, hs] <;> rfl
  · have h : k = 1 ∨ k = 2 := by omega
    rcases h with rfl | rfl <;> decide
  · have h : k = 1 := by omega
    subst h
    decide

/-- `selectState` selects the second compressor, whatever is asked afterwards. -/
theorem selects_select (l : List Answer) :
    Selects (selectState 2 (sizesThen l)) sizes 2 ∧ Selects (selectState 1 (sizesThen l)) sizes 2 :=
  ⟨selects_sizes l (by rfl) rfl rfl (buffers_select _).1 rfl (admitted_all rfl _),
    selects_sizes l (by rfl) rfl rfl (buffers_select _).2 rfl (admitted_all rfl _)⟩

/-- `selectState` with the last tag, for CC.EXPAND. -/
def tagged (s : State) : State := { s with algo := 2 }

theorem expands_select (l : List Answer) :
    Expands (tagged (selectState 2 l)) ∧ Expands (tagged (selectState 1 l)) :=
  ⟨⟨by rfl, (buffers_select l).1, show (2 : Word).toNat ≠ 0 by decide, admitted_all rfl _,
      show 1 ≤ (2 : Word).toNat by decide, show (2 : Word).toNat ≤ 2 by decide⟩,
    ⟨by rfl, (buffers_select l).2, show (2 : Word).toNat ≠ 0 by decide, admitted_all rfl _,
      show 1 ≤ (2 : Word).toNat by decide, show (2 : Word).toNat ≤ 2 by decide⟩⟩

/-- An answer that fills the destination exactly. -/
theorem witness_CcSelectPicksTheShortest :
    Selects (selectState 2 (sizesThen (answers [[8, 9]]))) sizes 2 ∧
      answerAt (selectState 2 (sizesThen (answers [[8, 9]]))) 2
          ⟨.compress, 2, ccInput (selectState 2 (sizesThen (answers [[8, 9]])))⟩ = some (.ok [8, 9]) ∧
      ([8, 9] : List Byte).length = (sizes 2).length ∧ ([8, 9] : List Byte).length ≤ (2 : Word).toNat ∧
      Admitted Params.default (dstPart (selectState 2 []) 2) ∧
      isRaced [srcBuf (selectState 2 []), dstBuf (selectState 2 [])] (selectState 2 []) = false :=
  ⟨(selects_select _).1, rfl, by decide, by decide, admitted_all rfl _, by decide⟩

theorem witness_CcSelectOfEmptyInput :
    CcBuffersOk (small [] 0 0 0 0) ∧ (0 : Word).toNat = 0 ∧
      isRaced [srcBuf (small [] 0 0 0 0), dstBuf (small [] 0 0 0 0)] (small [] 0 0 0 0) = false :=
  ⟨⟨by decide, by decide, by decide⟩, by decide, by decide⟩

/-- The failure of the last compressor, and of the first; the shortest answer one byte longer than the
destination; the decompressor's failure, and its answer one byte longer than the destination. -/
theorem witness_CcSelectReportsTheFirstFailure :
    (CcBuffersOk (selectState 2 [.gives (.ok [7, 7, 7]), .gives .fail]) ∧
      Admitted Params.default (srcBuf (selectState 2 [])) ∧
      (∀ j, 1 ≤ j → j < 2 →
        answerAt (selectState 2 [.gives (.ok [7, 7, 7]), .gives .fail]) (j - 1)
          ⟨.compress, j, ccInput (selectState 2 [.gives (.ok [7, 7, 7]), .gives .fail])⟩ =
          some (.ok (sizes j))) ∧
      answerAt (selectState 2 [.gives (.ok [7, 7, 7]), .gives .fail]) 1
          ⟨.compress, 2, ccInput (selectState 2 [.gives (.ok [7, 7, 7]), .gives .fail])⟩ = some .fail ∧
      answerAt (selectState 2 [.gives .fail]) 0
          ⟨.compress, 1, ccInput (selectState 2 [.gives .fail])⟩ = some .fail) ∧
    (Selects (selectState 1 (sizesThen [])) sizes 2 ∧ (1 : Word).toNat < (sizes 2).length) ∧
    (Expands (tagged (selectState 2 [.gives .fail])) ∧
      expandAnswer (tagged (selectState 2 [.gives .fail])) 0 = some .fail) ∧
    (Expands (tagged (selectState 1 (answers [[5, 6]]))) ∧
      expandAnswer (tagged (selectState 1 (answers [[5, 6]]))) 0 = some (.ok [5, 6]) ∧
      (1 : Word).toNat < ([5, 6] : List Byte).length) := by
  refine ⟨⟨(buffers_select _).1, admitted_all rfl _, fun j h1 h2 => ?_, rfl, rfl⟩,
    ⟨(selects_select _).2, by decide⟩, ⟨(expands_select _).1, rfl⟩,
    ⟨(expands_select _).2, rfl, by decide⟩⟩
  have h : j = 1 := by omega
  subst h
  rfl

/-- A failure has no length, and one byte is not two. -/
theorem not_length_two {y : List Byte} :
    (Response.fail = .ok y → y.length ≠ 2) ∧ (Response.ok [8] = .ok y → y.length ≠ 2) := by
  refine ⟨fun h => ?_, fun h => ?_⟩ <;> cases h
  decide

/-- The repeated request fails, or answers one byte fewer; for CC.SELECT and for CC.EXPAND. -/
theorem witness_CcSelectDetectsNondeterminism :
    (Memory.wf (selectState 2 []).mem = true ∧
      Selects (selectState 2 (sizesThen [.gives .fail])) sizes 2 ∧
      Selects (selectState 2 (sizesThen [.gives (.ok [8])])) sizes 2 ∧
      (sizes 2).length ≤ (2 : Word).toNat ∧
      answerAt (selectState 2 (sizesThen [.gives .fail])) 2
          ⟨.compress, 2, ccInput (selectState 2 [])⟩ = some .fail ∧
      (∀ y, Response.fail = .ok y → y.length ≠ (sizes 2).length) ∧
      answerAt (selectState 2 (sizesThen [.gives (.ok [8])])) 2
          ⟨.compress, 2, ccInput (selectState 2 [])⟩ = some (.ok [8]) ∧
      (∀ y, Response.ok [8] = .ok y → y.length ≠ (sizes 2).length)) ∧
    (Expands (tagged (selectState 2 [.gives (.ok [5, 6]), .gives .fail])) ∧
      expandAnswer (tagged (selectState 2 [.gives (.ok [5, 6]), .gives .fail])) 0 = some (.ok [5, 6]) ∧
      ([5, 6] : List Byte).length ≤ (2 : Word).toNat ∧
      expandAnswer (tagged (selectState 2 [.gives (.ok [5, 6]), .gives .fail])) 1 = some .fail ∧
      ∀ y, Response.fail = .ok y → y.length ≠ ([5, 6] : List Byte).length) :=
  ⟨⟨by decide, (selects_select _).1, (selects_select _).1, by decide, rfl, fun _ => not_length_two.1, rfl,
    fun _ => not_length_two.2⟩, (expands_select _).1, rfl, by decide, rfl, fun _ => not_length_two.1⟩

/-- The last tag. -/
theorem witness_CcExpandDecompresses :
    Expands (tagged (selectState 2 (answers [[5], [6]]))) ∧
      expandAnswer (tagged (selectState 2 (answers [[5], [6]]))) 0 = some (.ok [5]) ∧
      expandAnswer (tagged (selectState 2 (answers [[5], [6]]))) 1 = some (.ok [6]) ∧
      ([6] : List Byte).length ≤ (2 : Word).toNat ∧ Admitted Params.default (dstPart State.reset 1) ∧
      isRaced [srcBuf (selectState 2 []), dstBuf (selectState 2 [])] (selectState 2 []) = false :=
  ⟨(expands_select _).1, rfl, rfl, by decide, admitted_all rfl _, by decide⟩

/-- The clauses of CC.SELECT and of CC.EXPAND with a tag, with the last output byte refused. -/
theorem witness_RefusedOutputByteIsBusWrite_cc :
    (Selects (refusing ⟨0x201, 1⟩ (selectState 2 (sizesThen (answers [[8, 9]])))) sizes 2 ∧
      answerAt (refusing ⟨0x201, 1⟩ (selectState 2 (sizesThen (answers [[8, 9]])))) 2
          ⟨.compress, 2, ccInput (selectState 2 [])⟩ = some (.ok [8, 9]) ∧
      ¬Admitted (refusing ⟨0x201, 1⟩ (selectState 2 [])).cfg (dstPart (selectState 2 []) 2)) ∧
    (Expands (refusing ⟨0x201, 1⟩ (tagged (selectState 2 (answers [[8, 9], [8, 9]])))) ∧
      expandAnswer (refusing ⟨0x201, 1⟩ (tagged (selectState 2 (answers [[8, 9], [8, 9]])))) 0 =
        some (.ok [8, 9]) ∧
      expandAnswer (refusing ⟨0x201, 1⟩ (tagged (selectState 2 (answers [[8, 9], [8, 9]])))) 1 =
        some (.ok [8, 9])) :=
  ⟨⟨selects_sizes (answers [[8, 9]]) (by rfl) rfl rfl (buffers_select (sizesThen (answers [[8, 9]]))).1 rfl
      (admitted_below rfl (by decide)), rfl,
      not_admitted 0x201 (by decide) (by decide) (by decide)⟩,
    ⟨⟨by rfl, (buffers_select (answers [[8, 9], [8, 9]])).1, by decide, admitted_below rfl (by decide),
      by decide, by decide⟩, rfl,
      rfl⟩⟩

/-- A copy that fills its destination, and one of no byte. -/
theorem witness_CcExpandCopiesUnderNone :
    (CcBuffersOk (selectState 2 []) ∧ (selectState 2 []).algo.toNat = 0 ∧ (2 : Word).toNat ≤ (2 : Word).toNat ∧
      Admitted Params.default (srcBuf (selectState 2 [])) ∧ Admitted Params.default (dstPart State.reset 2) ∧
      isRaced [srcBuf (selectState 2 []), dstBuf (selectState 2 [])] (selectState 2 []) = false) ∧
    (CcBuffersOk (small [] 0 0 0 0) ∧ (small [] 0 0 0 0).algo.toNat = 0) :=
  ⟨⟨(buffers_select []).1, by decide, by decide, admitted_all rfl _, admitted_all rfl _, by decide⟩,
    ⟨by decide, by decide, by decide⟩, by decide⟩

theorem witness_CcExpandOfEmptyInput :
    CcBuffersOk { small [] 0 0 0 0 with algo := 1 } ∧ (0 : Word).toNat = 0 ∧ 1 ≤ (1 : Word).toNat ∧
      (1 : Word).toNat ≤ Params.default.nAlgo ∧
      isRaced [srcBuf (small [] 0 0 0 0), dstBuf (small [] 0 0 0 0)]
        { small [] 0 0 0 0 with algo := 1 } = false :=
  ⟨⟨by decide, by decide, by decide⟩, by decide, by decide, by decide, by decide⟩

theorem witness_SelectorErrorOrder :
    ¬(InSpace State.reset (srcBuf { small [] 2 4 0 0 with srcAddr := 0xFFFFFFFFFFFFFFFF }) ∧
        InSpace State.reset (dstBuf (small [] 2 4 0 0))) ∧
      (InSpace State.reset (srcBuf { small [] 2 4 0 0 with dstAddr := 0x101 }) ∧
        InSpace State.reset (dstBuf { small [] 2 4 0 0 with dstAddr := 0x101 }) ∧
        ¬Apart (srcBuf { small [] 2 4 0 0 with dstAddr := 0x101 })
          (dstBuf { small [] 2 4 0 0 with dstAddr := 0x101 })) ∧
      Params.default.nAlgo < (3 : Word).toNat ∧ (2 : Word).toNat ≤ Params.default.nAlgo ∧
      (Apart (srcBuf (small [] 2 1 0 0)) (dstBuf (small [] 2 1 0 0)) ∧
        (small [] 2 1 0 0).algo.toNat = 0 ∧ (1 : Word).toNat < (2 : Word).toNat) := by decide

/-- The second of two answers is withheld, from an accepted CC.SELECT. -/
theorem witness_WithheldAnswerLeavesRunning :
    CcBuffersOk (selectState 2 [.gives (.ok [7, 7, 7]), .withholds]) ∧
      Admitted Params.default (srcBuf (selectState 2 [])) ∧ (selectState 2 []).inputs = [] ∧
      (∀ j, 1 ≤ j → j < 2 →
        answerAt (selectState 2 [.gives (.ok [7, 7, 7]), .withholds]) (j - 1)
          ⟨.compress, j, ccInput (selectState 2 [])⟩ = some (.ok (sizes j))) ∧
      answerAt (selectState 2 [.gives (.ok [7, 7, 7]), .withholds]) 1
          ⟨.compress, 2, ccInput (selectState 2 [])⟩ = none ∧
      (accept 0x30 (selectState 2 [.withholds])).engine.mode = .running (encode .ccSelect) .validate := by
  refine ⟨(buffers_select _).1, admitted_all rfl _, by decide, fun j h1 h2 => ?_, rfl, by decide⟩
  have h : j = 1 := by omega
  subst h
  rfl

/-- The empty input: tag NONE, expanded with no request. -/
theorem witness_CompressorRoundTrip_empty :
    exec .ccSelect (small [] 0 0 0 0) = .next (after (exec .ccSelect (small [] 0 0 0 0)) busyState) ∧
      (after (exec .ccSelect (small [] 0 0 0 0)) busyState).busy = false ∧
      (after (exec .ccSelect (small [] 0 0 0 0)) busyState).err = 0 ∧
      CcBuffersOk (decodeFrom 0 (small [] 0 0 0 0) (after (exec .ccSelect (small [] 0 0 0 0)) busyState)) ∧
      (small [] 0 0 0 0).srcLen.toNat ≤ (0 : Word).toNat ∧ ¬ccInput (small [] 0 0 0 0) ≠ [] :=
  ⟨rfl, by decide, by decide, ⟨by decide, by decide, by decide⟩, by decide, by decide⟩

/-- Two bytes compressed to one by the first compressor, and expanded by an exact decompressor. -/
def compressed : State :=
  selectState 2 (answers [[5], [5, 5], [5]] ++ answers [[1, 2], [1, 2]])

/-- The state in which the output of `compressed` is expanded. -/
def expandState : State := decodeFrom 2 compressed (after (exec .ccSelect compressed) busyState)

theorem witness_CompressorRoundTrip :
    Memory.wf compressed.mem = true ∧ compressed.cfg.wellFormed = true ∧
      isRaced [srcBuf compressed, dstBuf compressed] compressed = false ∧
      exec .ccSelect compressed = .next (after (exec .ccSelect compressed) busyState) ∧
      (after (exec .ccSelect compressed) busyState).busy = false ∧
      (after (exec .ccSelect compressed) busyState).err = 0 ∧ CcBuffersOk expandState ∧
      compressed.srcLen.toNat ≤ (2 : Word).toNat ∧
      Admitted expandState.cfg (dstPart expandState compressed.srcLen.toNat) ∧
      isRaced [srcBuf expandState, dstBuf expandState] expandState = false ∧
      expandState.srcLen ≠ 0 ∧
      answerAt expandState 0 ⟨.decompress, expandState.algo.toNat, ccInput expandState⟩ =
        some (.ok (ccInput compressed)) ∧
      answerAt expandState 1 ⟨.decompress, expandState.algo.toNat, ccInput expandState⟩ =
        some (.ok (ccInput compressed)) :=
  ⟨by decide, by decide, by decide, rfl, by decide, by decide, ⟨by decide, by decide, by decide⟩,
    by decide, admitted_all rfl _, by decide, by decide, rfl, rfl⟩

/-- BS.PACK.32 of one element, accepted: it names the source 0x100 to 0x103 and the destination 0x200 to
0x203. -/
def packing : State := accept (encode .bsPack32) (small [] 0 4 1 8)

/-- A write of the last byte of the data space; on a running machine, a write of the last source byte, which
races, and one just above it, which does not; a read that touches the destination and the byte before it;
accesses one byte past the space. -/
theorem witness_AgentWriteStoresAndRaces :
    (Memory.wf State.reset.mem = true ∧
      (pending [.memWrite 0xFFFFFFFFFFFFFFFF [1]] State.reset).inputs =
        .memWrite 0xFFFFFFFFFFFFFFFF [1] :: [] ∧
      0xFFFFFFFFFFFFFFFF + ([1] : List Byte).length ≤ 2 ^ Params.default.addrBits) ∧
    (packing.busy = true ∧ packing.engine.raced = false ∧
      (pending [.memWrite 0x103 [1]] packing).inputs = .memWrite 0x103 [1] :: [] ∧
      (namedNow packing).any (fun b => meets b ⟨0x103, 1⟩) = true ∧
      (after (step (pending [.memWrite 0x103 [1]] packing)) packing).engine.raced = true ∧
      (after (step (pending [.memWrite 0x104 [1]] packing)) packing).engine.raced = false) ∧
    ((pending [.memRead 0x1FF 2] packing).inputs = .memRead 0x1FF 2 :: [] ∧
      0x1FF + 2 ≤ 2 ^ Params.default.addrBits ∧
      (∀ b ∈ outputsNow (pending [.memRead 0x1FF 2] packing), hasByte b (0x1FF + 0) = false)) ∧
    ((pending [.memRead 0xFFFFFFFFFFFFFFFF 2] State.reset).inputs = .memRead 0xFFFFFFFFFFFFFFFF 2 :: [] ∧
      2 ^ Params.default.addrBits < 0xFFFFFFFFFFFFFFFF + 2 ∧
      (pending [.memWrite 0x10000000000000000 [1]] State.reset).inputs =
        .memWrite 0x10000000000000000 [1] :: [] ∧
      2 ^ Params.default.addrBits < 0x10000000000000000 + ([1] : List Byte).length) := by decide

theorem witness_StepKeepsTheInvariant :
    Inv (pending [.engine] busyState) ∧
      step (pending [.engine] busyState) =
        .next (after (step (pending [.engine] busyState)) busyState) :=
  ⟨⟨by decide, by decide, by decide, by decide, fun h => absurd rfl h,
    ⟨rfl, rfl, rfl, rfl, fun _ => ⟨.bsPack32, by decide⟩⟩⟩, rfl⟩

end Sys2Proof.Tests
end

section
/-!
PROOF. ID and CAP (10_state.md R22, R23). CAP depends on the parameters alone and a host write keeps them,
whatever the register port makes of it.
-/

namespace Sys2Proof.Proofs

open Sys2Proof Sys2Proof.Machine Sys2Proof.Laws

/-! ### What the two registers read -/

@[simp] theorem readReg_id (s : State) : readReg .id s = idWord := rfl

@[simp] theorem readReg_cap (s : State) : readReg .cap s = capWord s.cfg := rfl

/-- The ranges of 00_scope.md R6 keep N_ALGO and ADDR_BITS within their 8-bit fields of CAP. -/
theorem capFields_lt_of_wellFormed {p : Params} (h : p.wellFormed = true) :
    p.nAlgo < 2 ^ 8 ∧ p.addrBits < 2 ^ 8 := by
  simp only [Params.wellFormed, Bool.and_eq_true, decide_eq_true_eq] at h
  omega

/-- Appending bit vectors, as arithmetic: the upper part weighs 2 to the width of the lower. -/
theorem toNat_append_eq_add {m n : Nat} (x : BitVec m) (y : BitVec n) :
    (x ++ y).toNat = x.toNat * 2 ^ n + y.toNat := by
  rw [BitVec.toNat_append, ← Nat.shiftLeft_add_eq_or_of_lt y.isLt, Nat.shiftLeft_eq]

/-- R23's fields as a sum of their weights; the reserved bits add nothing. -/
theorem capWord_toNat {p : Params} (hn : p.nAlgo < 2 ^ 8) (ha : p.addrBits < 2 ^ 8) :
    (capWord p).toNat = p.nAlgo + 2 ^ 8 + 2 ^ 9 + p.addrBits * 2 ^ 16 := by
  simp only [capWord, toNat_append_eq_add, BitVec.toNat_ofNat, Nat.mod_eq_of_lt hn, Nat.mod_eq_of_lt ha]
  omega

/-! ### A host write keeps the parameters -/

@[simp] theorem writeCtrl_cfg (v : Word) (s : State) : (writeCtrl v s).cfg = s.cfg := by
  unfold writeCtrl
  split
  · exact resetMachine_cfg s
  · rfl

@[simp] theorem writeIdle_cfg (r : Reg) (v : Word) (s : State) : (writeIdle r v s).cfg = s.cfg := by
  cases r <;> rfl

@[simp] theorem writeOffset_cfg (off : Nat) (v : Word) (s : State) :
    (writeOffset off v s).cfg = s.cfg := by
  unfold writeOffset
  split
  · exact writeCtrl_cfg v s
  · exact acknowledge_cfg v s
  · split
    · rfl
    · exact writeIdle_cfg _ v s
  · split <;> rfl

@[simp] theorem hostWrite_cfg (addr size : Nat) (v : Word) (s : State) :
    (hostWrite addr size v s).cfg = s.cfg := by
  unfold hostWrite
  split
  · rfl
  · rfl
  · exact writeOffset_cfg _ v s

/-- Settles O13: CAP is a function of the parameters, which no host write changes. -/
theorem idAndCapAreConstant : Obligations.IdAndCapAreConstant := by
  refine ⟨readReg_id, fun s hs => ?_, by decide, fun s t addr size v rest hi hstep => ?_⟩
  · obtain ⟨hn, ha⟩ := capFields_lt_of_wellFormed hs
    rw [readReg_cap, capWord_toNat hn ha]
  · have ht : hostWrite addr size v { s with inputs := rest } = t :=
      Host.Outcome.next.inj ((step_of_input hi).symm.trans hstep)
    have hcfg : t.cfg = s.cfg := by rw [← ht, hostWrite_cfg]
    exact ⟨rfl, by rw [readReg_cap, readReg_cap, hcfg]⟩

end Sys2Proof.Proofs
end

section
/-!
PROOF. Command words (30_encoding.md R85 to R90). A CMD value is put together again from its fields, so a word
that decodes is the one word that its line of the opcode map gives; hence decoding is the inverse of encoding.
-/

namespace Sys2Proof.Proofs

open Sys2Proof

/-! ### The fields of a word -/

/-- The CMD value with given fields (R85): `cmdFields` read backwards. -/
def wordOfFields (f : CmdFields) : Word := f.rsv ++ BitVec.ofBool f.w ++ f.opc

/-- R85: the three fields cover all 64 bits. -/
@[simp] theorem wordOfFields_cmdFields (c : Word) : wordOfFields (cmdFields c) = c := by
  have hw : (BitVec.ofBool (c.getLsbD 8)).toNat = c.toNat / 2 ^ 8 % 2 := by
    rw [BitVec.toNat_ofBool, BitVec.getLsbD, Nat.toNat_testBit]
  apply BitVec.eq_of_toNat_eq
  simp only [wordOfFields, cmdFields, toNat_append_eq_add, hw, BitVec.extractLsb'_toNat,
    Nat.shiftRight_eq_div_pow]
  omega

/-! ### The opcode map -/

/-- The command that a line of the opcode map gives for a W bit, `none` where R88 says illegal. -/
def rowCommand (r : OpcodeRow) : Bool → Option Instr
  | false => some r.w0
  | true => r.w1

/-- A legal word: nothing reserved is set, and a line of the opcode map gives the command for W. -/
theorem row_of_decodeFields {f : CmdFields} {i : Instr} (h : decodeFields f = .ok i) :
    f.rsv = 0 ∧ ∃ r ∈ opcodeMap, r.opc = f.opc ∧ rowCommand r f.w = some i := by
  unfold decodeFields at h
  split at h
  · cases h
  next hrsv =>
    split at h
    · cases h
    next r hfind =>
      refine ⟨not_not.mp hrsv, r, List.mem_of_find?_eq_some hfind,
        beq_iff_eq.mp (List.find?_some hfind :), ?_⟩
      split at h <;> cases h
      next hw => rw [hw, rowCommand]
      next hw hw1 => rw [hw, rowCommand, hw1]

/-- The encoder agrees with every line of the opcode map. -/
theorem encode_of_mem_opcodeMap :
    ∀ r ∈ opcodeMap, ∀ w, ∀ i ∈ rowCommand r w, encode i = wordOfFields ⟨r.opc, w, 0⟩ := by
  decide

/-! ### Decoding is the inverse of encoding -/

@[simp] theorem decode_encode (i : Instr) : decode (encode i) = .ok i := by
  cases i <;> rfl

theorem encode_of_decode {c : Word} {i : Instr} (h : decode c = .ok i) : encode i = c := by
  obtain ⟨hrsv, r, hr, hopc, hi⟩ := row_of_decodeFields h
  calc encode i
      = wordOfFields ⟨r.opc, (cmdFields c).w, 0⟩ := encode_of_mem_opcodeMap r hr _ i hi
    _ = wordOfFields (cmdFields c) := by rw [hopc, ← hrsv]
    _ = c := wordOfFields_cmdFields c

theorem decode_eq_ok_iff (c : Word) (i : Instr) : decode c = .ok i ↔ c = encode i :=
  ⟨fun h => (encode_of_decode h).symm, fun h => h ▸ decode_encode i⟩

/-! ### The legal words -/

/-- The commands in the order of the opcode map, the W = 0 word of a line before its W = 1 word. -/
def mappedCommands : List Instr := opcodeMap.flatMap fun r => r.w0 :: r.w1.toList

theorem mem_mappedCommands (i : Instr) : i ∈ mappedCommands := by
  cases i <;> decide

/-- A number is paired with a command in the list of all the encodings exactly when it is its encoding. -/
theorem mem_map_encode_iff (n : Nat) (i : Instr) :
    (n, i) ∈ mappedCommands.map (fun j => ((encode j).toNat, j)) ↔ n = (encode i).toNat := by
  constructor
  · intro h
    obtain ⟨j, -, hj⟩ := List.mem_map.mp h
    obtain ⟨rfl, rfl⟩ := Prod.mk.inj hj
    rfl
  · rintro rfl
    exact List.mem_map_of_mem (mem_mappedCommands i)

/-- Settles O1: a command's own encoding is the only word that decodes to it, and the 18 pairs of R88 are,
by evaluation, the commands of the opcode map with their encodings. -/
theorem legalWordsAreTheOpcodeMap : Obligations.LegalWordsAreTheOpcodeMap := by
  intro c i
  calc decode c = .ok i
      ↔ c = encode i := decode_eq_ok_iff c i
    _ ↔ c.toNat = (encode i).toNat := BitVec.toNat_inj.symm
    _ ↔ _ := (mem_map_encode_iff c.toNat i).symm

end Sys2Proof.Proofs
end

section
/-!
PROOF. Bit fields in data memory (20_memory.md R61, R62; 40_bitstream.md R110). A word list, stored, is the
BitBuffer whose bits are the list's bits; a field extracted from words is the string of its bits.
-/

namespace Sys2Proof.Proofs

open Sys2Proof Sys2Proof.Machine Sys2Proof.Safety Sys2Proof.Laws

/-! ### Bits of little-endian bytes -/

theorem testBit_leValue (bs : List Byte) (k : Nat) :
    (leValue bs).testBit k = (bs.getD (k / 8) 0).getLsbD (k % 8) := by
  induction bs generalizing k with
  | nil => simp [leValue]
  | cons b bs ih =>
    have hsum : leValue (b :: bs) = 2 ^ 8 * leValue bs + b.toNat := by rw [leValue]; ring
    rw [hsum, Nat.testBit_two_pow_mul_add _ b.isLt]
    split
    next hk => rw [Nat.div_eq_of_lt hk, Nat.mod_eq_of_lt hk]; rfl
    next hk =>
      have hdiv : k / 8 = (k - 8) / 8 + 1 := by omega
      have hmod : k % 8 = (k - 8) % 8 := by omega
      rw [ih, hdiv, hmod, List.getD_cons_succ]

theorem getLsbD_leBytes (n v k : Nat) (hk : k < 8 * n) :
    ((leBytes n v).getD (k / 8) 0).getLsbD (k % 8) = v.testBit k := by
  induction n generalizing v k with
  | zero => omega
  | succ n ih =>
    rw [leBytes]
    by_cases h : k < 8
    · rw [Nat.div_eq_of_lt h, Nat.mod_eq_of_lt h, List.getD_cons_zero, BitVec.getLsbD_ofNat]
      simp [h]
    · have hdiv : k / 8 = (k - 8) / 8 + 1 := by omega
      have hmod : k % 8 = (k - 8) % 8 := by omega
      rw [hdiv, hmod, List.getD_cons_succ, ih _ _ (by omega), show 256 = 2 ^ 8 by rfl,
        Nat.testBit_div_two_pow, Nat.sub_add_cancel (by omega)]

/-! ### Bits of a word list -/

theorem wordBit_cons (w : Width) (x : Nat) (xs : List Nat) (p : Nat) :
    wordBit w (x :: xs) p = if p < wBits w then x.testBit p else wordBit w xs (p - wBits w) := by
  unfold wordBit
  split
  next hp => rw [Nat.div_eq_of_lt hp, Nat.mod_eq_of_lt hp, List.getD_cons_zero]
  next hp =>
    rw [Nat.div_eq_sub_div (wBits_pos w) (by omega), Nat.mod_eq_sub_mod (by omega),
      List.getD_cons_succ]

theorem wordBit_mul_add (w : Width) (xs : List Nat) (i : Nat) {k : Nat} (hk : k < wBits w) :
    wordBit w xs (i * wBits w + k) = (xs.getD i 0).testBit k := by
  rw [wordBit, Nat.mul_comm, Nat.mul_add_div (wBits_pos w), Nat.div_eq_of_lt hk, Nat.add_zero,
    Nat.mul_add_mod, Nat.mod_eq_of_lt hk]

theorem getLsbD_wordsBytes (w : Width) (xs : List Nat) {p : Nat} (hp : p < xs.length * wBits w) :
    ((wordsBytes (wBytes w) xs).getD (p / 8) 0).getLsbD (p % 8) = wordBit w xs p := by
  induction xs generalizing p with
  | nil => simp at hp
  | cons x xs ih =>
    have hW := wBits_eq w
    rw [List.length_cons, Nat.add_mul, Nat.one_mul] at hp
    rw [wordBit_cons, wordsBytes]
    split
    next h =>
      rw [List.getD_append _ _ _ _ (by rw [length_leBytes]; omega), getLsbD_leBytes _ _ _ (by omega)]
    next h =>
      have hdiv : p / 8 - wBytes w = (p - wBits w) / 8 := by omega
      have hmod : p % 8 = (p - wBits w) % 8 := by omega
      rw [List.getD_append_right _ _ _ _ (by rw [length_leBytes]; omega), length_leBytes, hdiv, hmod,
        ih (by omega)]

/-! ### Bits of a BitBuffer -/

theorem testBit_memRead (m : Memory) (a : Nat) {n k : Nat} (hk : k < 8 * n) :
    (memRead m a n).testBit k = bufferBit m a k := by
  rw [memRead, testBit_leValue, getD_readBytes _ _ _ _ (by omega), bufferBit]

/-- The bits of the word i words further on. -/
theorem bufferBit_add_words (w : Width) (m : Memory) (a i k : Nat) :
    bufferBit m (a + i * wBytes w) k = bufferBit m a (i * wBits w + k) := by
  have hW : i * wBits w = 8 * (i * wBytes w) := by rw [wBits_eq]; ring
  have hdiv : (i * wBits w + k) / 8 = i * wBytes w + k / 8 := by omega
  have hmod : (i * wBits w + k) % 8 = k % 8 := by omega
  rw [bufferBit, bufferBit, hdiv, hmod, Nat.add_assoc]

theorem wordBit_readWords (w : Width) (m : Memory) (a : Nat) {n p : Nat} (hp : p < n * wBits w) :
    wordBit w (readWords m (wBytes w) a n) p = bufferBit m a p := by
  have hmod : p % wBits w < 8 * wBytes w := by rw [← wBits_eq]; exact Nat.mod_lt _ (wBits_pos w)
  rw [wordBit, getD_readWords _ _ _ _ _ ((Nat.div_lt_iff_lt_mul (wBits_pos w)).mpr hp),
    testBit_memRead _ _ hmod, bufferBit_add_words, Nat.div_add_mod']

/-- Storing a word list makes the buffer's bits the list's bits. -/
theorem bufferBit_writeWords {m : Memory} (h : Memory.wf m = true) (w : Width) (a : Nat)
    (xs : List Nat) {p : Nat} (hp : p < xs.length * wBits w) :
    bufferBit (writeBytes m a (wordsBytes (wBytes w) xs)) a p = wordBit w xs p := by
  have hW : xs.length * wBits w = 8 * (xs.length * wBytes w) := by rw [wBits_eq]; ring
  rw [bufferBit, readByte_writeBytes h, length_wordsBytes, if_pos (by omega), Nat.add_sub_cancel_left,
    getLsbD_wordsBytes w xs hp]

theorem memRead_lt_two_pow (w : Width) (m : Memory) (a : Nat) : memRead m a (wBytes w) < 2 ^ wBits w := by
  have h := memRead_lt m a (wBytes w)
  rwa [show 256 = 2 ^ 8 by rfl, ← pow_mul, ← wBits_eq] at h

theorem testBit_element (w : Width) (m : Memory) (a i t : Nat) :
    (element w m a i).testBit t = (decide (t < wBits w) && bufferBit m a (i * wBits w + t)) := by
  by_cases ht : t < wBits w
  · rw [element, testBit_memRead _ _ (by rwa [← wBits_eq]), bufferBit_add_words]
    simp [ht]
  · have hlt : element w m a i < 2 ^ t :=
      calc element w m a i < 2 ^ wBits w := memRead_lt_two_pow w m _
        _ ≤ 2 ^ t := Nat.pow_le_pow_right (by decide) (by omega)
    simp [ht, Nat.testBit_lt_two_pow hlt]

/-- An element of a stored word list, read back. -/
theorem element_writeWords {m : Memory} (h : Memory.wf m = true) (w : Width) (a : Nat)
    (xs : List Nat) {i : Nat} (hi : i < xs.length) :
    element w (writeBytes m a (wordsBytes (wBytes w) xs)) a i = maskTo (wBits w) (xs.getD i 0) := by
  refine Nat.eq_of_testBit_eq fun t => ?_
  rw [testBit_element, testBit_maskTo]
  by_cases ht : t < wBits w
  · have hlt : i * wBits w + t < xs.length * wBits w :=
      calc i * wBits w + t < (i + 1) * wBits w := by rw [Nat.add_mul]; omega
        _ ≤ xs.length * wBits w := Nat.mul_le_mul_right _ hi
    rw [bufferBit_writeWords h w a xs hlt, wordBit_mul_add w xs i ht]
  · simp [ht]

/-! ### Fields -/

/-- A field extracted from words that hold a bit string is that string's bits from the field's offset on. The
second word counts only where the field reaches into it. -/
theorem testBit_extractField_of_bits {w : Width} {fw o x0 x1 : Nat} {f : Nat → Bool} (hfw : fw ≤ wBits w)
    (h0 : x0 < 2 ^ wBits w)
    (hx0 : ∀ k, k < wBits w → x0.testBit k = f (wordIndex w o * wBits w + k))
    (hx1 : ∀ k, k < wBits w → (wordIndex w o + 1) * wBits w + k < o + fw →
      x1.testBit k = f ((wordIndex w o + 1) * wBits w + k)) (t : Nat) :
    (extractField w fw o x0 x1).testBit t = (decide (t < fw) && f (o + t)) := by
  have ho := offset_eq w o
  have hb := bitIndex_lt w o
  rw [testBit_extractField w fw o x0 x1 t h0]
  by_cases ht : t < fw
  · congr 1
    split
    next h => rw [hx0 _ h, ← Nat.add_assoc, ho]
    next h =>
      have hpos : (wordIndex w o + 1) * wBits w + (bitIndex w o + t - wBits w) = o + t := by
        rw [Nat.add_mul]; omega
      have hsecond : bitIndex w o + t - wBits w < bitIndex w o := by omega
      rw [hx1 _ (by omega) (by omega), hpos]
      simp [hsecond]
  · simp [ht]

/-- The field that two adjacent words of a BitBuffer hold (40_bitstream.md R112). -/
theorem testBit_extractField_memRead {w : Width} (m : Memory) (a : Nat) {fw : Nat} (o : Nat)
    (hfw : fw ≤ wBits w) (t : Nat) :
    (extractField w fw o (memRead m (a + wordIndex w o * wBytes w) (wBytes w))
        (memRead m (a + wordIndex w o * wBytes w + wBytes w) (wBytes w))).testBit t =
      (decide (t < fw) && bufferBit m a (o + t)) := by
  have hnext : a + wordIndex w o * wBytes w + wBytes w = a + (wordIndex w o + 1) * wBytes w := by ring
  refine testBit_extractField_of_bits (f := bufferBit m a) hfw (memRead_lt_two_pow w m _) ?_ ?_ t
  · intro k hk
    rw [testBit_memRead _ _ (by rwa [← wBits_eq]), bufferBit_add_words]
  · intro k hk _
    rw [hnext, testBit_memRead _ _ (by rwa [← wBits_eq]), bufferBit_add_words]

/-- The field i of the words of a BitBuffer (40_bitstream.md R114). -/
theorem testBit_fieldAt_readWords {w : Width} (m : Memory) (a : Nat) {fw n i : Nat}
    (hfw : fw ≤ wBits w) (hpos : 0 < fw) (hi : (i + 1) * fw ≤ n * wBits w) (t : Nat) :
    (fieldAt w fw (readWords m (wBytes w) a n) i).testBit t =
      (decide (t < fw) && bufferBit m a (i * fw + t)) := by
  rw [Nat.add_mul, Nat.one_mul] at hi
  have hwi : wordIndex w (i * fw) < n := (Nat.div_lt_iff_lt_mul (wBits_pos w)).mpr (by omega)
  have hend : (wordIndex w (i * fw) + 1) * wBits w ≤ n * wBits w := Nat.mul_le_mul_right _ hwi
  refine testBit_extractField_of_bits (f := bufferBit m a) hfw ?_ ?_ ?_ t
  · rw [getD_readWords _ _ _ _ _ hwi]
    exact memRead_lt_two_pow w m _
  · intro k hk
    rw [← wordBit_mul_add w _ _ hk, wordBit_readWords w m a (by rw [Nat.add_mul] at hend; omega)]
  · intro k hk hlt
    rw [← wordBit_mul_add w _ _ hk, wordBit_readWords w m a (by omega)]

/-- Packed fields do not meet: bit t of field j comes from the j-th value alone (40_bitstream.md R113). -/
theorem wordBit_orFields {w : Width} {fw : Nat} (hfw : fw ≤ wBits w) {vs : List Nat}
    (hvs : ∀ v ∈ vs, v < 2 ^ fw) (out : List Nat) (i : Nat) {j t : Nat} (ht : t < fw)
    (hp : j * fw + t < out.length * wBits w) :
    wordBit w (orFields w fw out i vs) (j * fw + t) =
      (wordBit w out (j * fw + t) || (decide (i ≤ j) && (vs.getD (j - i) 0).testBit t)) := by
  induction vs generalizing out i with
  | nil => simp [orFields]
  | cons v vs ih =>
    obtain ⟨hv, hvs⟩ := List.forall_mem_cons.mp hvs
    rw [orFields, ih hvs _ _ (by rwa [length_orField]),
      wordBit_orField w fw out (i * fw) v _ hfw hv ((Nat.div_lt_iff_lt_mul (wBits_pos w)).mpr hp)]
    rcases lt_trichotomy j i with hlt | rfl | hgt
    · have hend : (j + 1) * fw ≤ i * fw := Nat.mul_le_mul_right _ hlt
      rw [Nat.add_mul] at hend
      have hbefore : ¬i * fw ≤ j * fw + t := by omega
      simp [hbefore, hlt.not_ge, show ¬i + 1 ≤ j by omega]
    · simp
    · have hstart : (i + 1) * fw ≤ j * fw := Nat.mul_le_mul_right _ hgt
      rw [Nat.add_mul] at hstart
      have hvbit : v.testBit (j * fw + t - i * fw) = false :=
        Nat.testBit_lt_two_pow (hv.trans_le (Nat.pow_le_pow_right (by decide) (by omega)))
      have hsub : j - i = j - (i + 1) + 1 := by omega
      rw [hvbit, hsub, List.getD_cons_succ]
      simp [hgt.le, Nat.succ_le_of_lt hgt]

theorem wordBit_replicate_zero (w : Width) (n p : Nat) : wordBit w (List.replicate n 0) p = false := by
  have hz : (List.replicate n 0).getD (p / wBits w) 0 = 0 := by
    rw [List.getD_eq_getElem?_getD, List.getElem?_replicate]
    split <;> rfl
  rw [wordBit, hz, Nat.zero_testBit]

/-- The packed words hold every field (00_scope.md R10). -/
theorem le_packedWords (w : Width) (n fw : Nat) : n * fw ≤ packedSize w n fw / wBytes w * wBits w :=
  calc n * fw ≤ 8 * packedSize w n fw := le_packedSize w n fw
    _ = 8 * (packedSize w n fw / wBytes w * wBytes w) := by rw [packedSize_div]
    _ = packedSize w n fw / wBytes w * wBits w := by rw [wBits_eq]; ring

theorem field_lt_packedWords (w : Width) {n fw j t : Nat} (hj : j < n) (ht : t < fw) :
    j * fw + t < packedSize w n fw / wBytes w * wBits w := by
  have hend : (j + 1) * fw ≤ n * fw := Nat.mul_le_mul_right _ hj
  have hle := le_packedWords w n fw
  rw [Nat.add_mul] at hend
  omega

/-- Bit t of field j of a packed word image. -/
theorem wordBit_packWords {w : Width} {fw : Nat} (hfw : fw ≤ wBits w) {vs : List Nat}
    (hvs : ∀ v ∈ vs, v < 2 ^ fw) {j t : Nat} (ht : t < fw) (hj : j < vs.length) :
    wordBit w (packWords w fw vs) (j * fw + t) = (vs.getD j 0).testBit t := by
  rw [packWords, wordBit_orFields hfw hvs _ _ ht
    (by rw [List.length_replicate]; exact field_lt_packedWords w hj ht), wordBit_replicate_zero]
  simp

end Sys2Proof.Proofs
end

section
/-!
PROOF. The BitStream commands (40_bitstream.md R111 to R115). What each one leaves in memory or in RESULT
when it succeeds, bit by bit, and from that the round trips: of BS.WR and BS.RD, and of BS.PACK and BS.UNPACK.
-/

namespace Sys2Proof.Proofs

open Sys2Proof Sys2Proof.Machine Sys2Proof.Safety Sys2Proof.Laws

/-! ### Success of a rule (30_encoding.md R93, R94) -/

/-- The command reaches COMMIT: its checks pass, READ meets no refused byte and prepares the job, and WRITE
meets no refused byte. -/
structure ReachesCommit (r : Rule) (s : State) (job : Job) : Prop where
  checks : firstFailure (r.checks s) = none
  reads : AllAdmitted s.cfg (r.reads s)
  plan : r.plan s = .ok job
  writes : AllAdmitted s.cfg (extentOf job.out)

theorem runRule_of_reachesCommit {r : Rule} {s : State} {job : Job} (h : ReachesCommit r s job)
    (hq : isRaced (r.named s) s = false) :
    runRule r s = { s with mem := storePieces s.mem job.out }.succeed job.commit := by
  obtain ⟨hchecks, hreads, hplan, hwrites⟩ := h
  rw [← refusedIn_eq_nil_iff_allAdmitted] at hreads hwrites
  rw [runRule_of_admitted hchecks ((readPhase_of_admitted hreads).trans hplan) hwrites]
  exact conclude_of_quiet ((isRaced_congr rfl rfl).trans hq)

/-- No error has the code of success (60_exceptions.md R180). -/
theorem code_ne_zero (k : ErrKind) : k.code ≠ 0 := by cases k <;> decide

/-- A command that ends without an error has reached COMMIT. -/
theorem reachesCommit_of_err_eq_zero {r : Rule} {s : State} (h : (runRule r s).err = 0) :
    ∃ job, ReachesCommit r s job := by
  obtain ⟨e, -, hfail⟩ | ⟨job, hchecks, hread, ⟨-, hfail⟩ | ⟨hwrites, -⟩⟩ := runRule_cases r s
  · rw [hfail, fail_err] at h
    exact absurd h (code_ne_zero _)
  · rw [hfail, failWrite, failLosing_err] at h
    exact absurd h (code_ne_zero _)
  · by_cases hreads : refusedIn s.cfg (r.reads s) = []
    · exact ⟨job, hchecks, (refusedIn_eq_nil_iff_allAdmitted _ _).mp hreads,
        (readPhase_of_admitted hreads).symm.trans hread, (refusedIn_eq_nil_iff_allAdmitted _ _).mp hwrites⟩
    · rw [readPhase_of_refused hreads] at hread
      cases hread

/-! ### VALIDATE (R111 to R114) -/

theorem badFieldWidth_eq_false_iff (w : Width) (s : State) : badFieldWidth w s = false ↔ WidthOk w s := by
  simp only [badFieldWidth, Bool.or_eq_false_iff, decide_eq_false_iff_not]
  omega

theorem badCount_eq_false_iff (s : State) : badCount s = false ↔ CountOk s := by
  simp only [badCount, Bool.or_eq_false_iff, decide_eq_false_iff_not]
  rw [countMax]
  omega

theorem notMultiple_eq_false_iff (w : Width) (r : Word) : notMultiple w r = false ↔ Aligned w r := by
  simp [notMultiple]

theorem outOfSpace_eq_false_iff (s : State) (b : Buf) : outOfSpace s b = false ↔ InSpace s b := by
  simp [outOfSpace, inSpace]

theorem badOffset_eq_false_iff (s : State) (len : Word) :
    badOffset s len = false ↔ s.bitOffset.toNat + s.fieldWidth.toNat ≤ 8 * len.toNat := by
  simp [badOffset]

theorem disjoint_iff (a b : Buf) : disjoint a b = true ↔ Apart a b := by
  simp only [disjoint, Bool.or_eq_true, decide_eq_true_eq, or_assoc]

theorem bsWrChecks_pass_iff (w : Width) (s : State) :
    firstFailure (bsWrChecks w s) = none ↔ BsWrLegal w s := by
  simp [firstFailure_eq_none_iff, bsWrChecks, BsWrLegal, badFieldWidth_eq_false_iff,
    notMultiple_eq_false_iff, outOfSpace_eq_false_iff, badOffset_eq_false_iff]

theorem bsRdChecks_pass_iff (w : Width) (s : State) :
    firstFailure (bsRdChecks w s) = none ↔ BsRdLegal w s := by
  simp [firstFailure_eq_none_iff, bsRdChecks, BsRdLegal, badFieldWidth_eq_false_iff,
    notMultiple_eq_false_iff, outOfSpace_eq_false_iff, badOffset_eq_false_iff]

theorem bsPackChecks_pass_iff (w : Width) (s : State) :
    firstFailure (bsPackChecks w s) = none ↔ BsPackLegal w s := by
  simp [firstFailure_eq_none_iff, bsPackChecks, BsPackLegal, badFieldWidth_eq_false_iff,
    badCount_eq_false_iff, notMultiple_eq_false_iff, outOfSpace_eq_false_iff,
    disjoint_iff]

theorem bsUnpackChecks_pass_iff (w : Width) (s : State) :
    firstFailure (bsUnpackChecks w s) = none ↔ BsUnpackLegal w s := by
  simp [firstFailure_eq_none_iff, bsUnpackChecks, BsUnpackLegal, badFieldWidth_eq_false_iff,
    badCount_eq_false_iff, notMultiple_eq_false_iff, outOfSpace_eq_false_iff,
    disjoint_iff]

/-! ### BS.WR (R111) -/

/-- How many words a field touches (R110). -/
def fieldWordCount (w : Width) (o fw : Nat) : Nat := if spans w o fw then 2 else 1

/-- The memory after BS.WR: the words of the field, with the value ORed in at the field's bit of the first. -/
def bsWrMem (w : Width) (s : State) : Memory :=
  let a0 := s.dstAddr.toNat + wordIndex w s.bitOffset.toNat * wBytes w
  writeBytes s.mem a0 (wordsBytes (wBytes w)
    (orField w s.fieldWidth.toNat
      (readWords s.mem (wBytes w) a0 (fieldWordCount w s.bitOffset.toNat s.fieldWidth.toNat))
      (bitIndex w s.bitOffset.toNat) (bsWrField w s)))

theorem writeBytes_append (m : Memory) (a : Nat) (bs cs : List Byte) :
    writeBytes m a (bs ++ cs) = writeBytes (writeBytes m a bs) (a + bs.length) cs := by
  induction bs generalizing m a with
  | nil => rfl
  | cons b bs ih => rw [List.cons_append, writeBytes, writeBytes, ih, List.length_cons]; congr 1; omega

theorem bitIndex_bitIndex (w : Width) (o : Nat) : bitIndex w (bitIndex w o) = bitIndex w o :=
  Nat.mod_mod _ _

/-- ORing a field into just the words it touches: where it spans, its low and high part go one to each. -/
theorem orField_touchedWords (w : Width) (fw o v x0 x1 : Nat) :
    orField w fw (if spans w o fw then [x0, x1] else [x0]) (bitIndex w o) v =
      if spans w o fw then [x0 ||| lowPart w o v, x1 ||| highPart w o v] else [x0 ||| lowPart w o v] := by
  have hspans : spans w (bitIndex w o) fw = spans w o fw := by rw [spans, spans, bitIndex_bitIndex]
  have hlow : lowPart w (bitIndex w o) v = lowPart w o v := by rw [lowPart, lowPart, bitIndex_bitIndex]
  have hhigh : highPart w (bitIndex w o) v = highPart w o v := by
    rw [highPart, highPart, bitIndex_bitIndex]
  have hfirst : wordIndex w (bitIndex w o) = 0 := Nat.div_eq_of_lt (bitIndex_lt w o)
  rw [orField, hspans, hlow, hhigh, hfirst]
  split <;> rfl

theorem readWords_fieldWordCount (w : Width) (m : Memory) (a o fw : Nat) :
    readWords m (wBytes w) a (fieldWordCount w o fw) =
      if spans w o fw then [memRead m a (wBytes w), memRead m (a + wBytes w) (wBytes w)]
      else [memRead m a (wBytes w)] := by
  unfold fieldWordCount
  split <;> rfl

/-- What READ prepares for BS.WR. -/
theorem bsWrPlan_eq (w : Width) (s : State) :
    ∃ job, bsWrPlan w s = .ok job ∧ extentOf job.out = bsWrWords w s ∧ job.commit = {} ∧
      storePieces s.mem job.out = bsWrMem w s := by
  refine ⟨_, rfl, ?_, rfl, ?_⟩
  · unfold bsWrWords fieldWords
    split <;> simp only [extentOf, List.map_cons, List.map_nil, length_leBytes]
  · rw [bsWrMem, readWords_fieldWordCount, orField_touchedWords]
    split <;> simp only [storePieces, wordsBytes, writeBytes_append, length_leBytes, List.append_nil]

theorem exec_bsWr_of_ready {w : Width} {s : State} (h : BsWrReady w s) :
    exec (.bsWr w) s = .next ({ s with mem := bsWrMem w s }.succeed {}) := by
  obtain ⟨hlegal, hadmitted, hquiet⟩ := h
  obtain ⟨job, hplan, hextent, hcommit, hmem⟩ := bsWrPlan_eq w s
  have hreach : ReachesCommit (bsWrRule w) s job :=
    ⟨(bsWrChecks_pass_iff w s).mpr hlegal, hadmitted, hplan, hextent ▸ hadmitted⟩
  rw [exec_bsWr, runRule_of_reachesCommit hreach hquiet, hmem, hcommit]

theorem bsWrReady_of_err_eq_zero {w : Width} {s t : State} (hquiet : isRaced [dstBuf s] s = false)
    (hexec : exec (.bsWr w) s = .next t) (herr : t.err = 0) : BsWrReady w s := by
  obtain rfl : runRule (bsWrRule w) s = t := Host.Outcome.next.inj ((exec_bsWr w s).symm.trans hexec)
  obtain ⟨job, hchecks, hreads, -, -⟩ := reachesCommit_of_err_eq_zero herr
  exact ⟨(bsWrChecks_pass_iff w s).mp hchecks, hreads, hquiet⟩

theorem bsWrField_lt (w : Width) (s : State) : bsWrField w s < 2 ^ s.fieldWidth.toNat := maskTo_lt _ _

theorem testBit_bsWrField {w : Width} {s : State} (hfw : s.fieldWidth.toNat ≤ wBits w) {t : Nat}
    (ht : t < s.fieldWidth.toNat) : (bsWrField w s).testBit t = s.value.getLsbD t := by
  simp [bsWrField, lowBits, testBit_maskTo, ht, ht.trans_le hfw, BitVec.getLsbD]

/-- A field's bits lie in the words it touches. -/
theorem field_lt_touchedWords {w : Width} {o fw t : Nat} (hfw : fw ≤ wBits w) (ht : t < fw) :
    bitIndex w o + t < fieldWordCount w o fw * wBits w := by
  have hb := bitIndex_lt w o
  unfold fieldWordCount
  split
  next => omega
  next h =>
    simp only [spans, decide_eq_true_eq] at h
    omega

/-- R111: the field's bits take old OR VALUE. -/
theorem bufferBit_bsWrMem {w : Width} {s : State} (hwf : Memory.wf s.mem = true)
    (hfw : s.fieldWidth.toNat ≤ wBits w) {t : Nat} (ht : t < s.fieldWidth.toNat) :
    bufferBit (bsWrMem w s) s.dstAddr.toNat (s.bitOffset.toNat + t) =
      (bufferBit s.mem s.dstAddr.toNat (s.bitOffset.toNat + t) || s.value.getLsbD t) := by
  have htouched := field_lt_touchedWords (o := s.bitOffset.toNat) hfw ht
  have hpos : s.bitOffset.toNat + t =
      wordIndex w s.bitOffset.toNat * wBits w + (bitIndex w s.bitOffset.toNat + t) := by
    rw [← Nat.add_assoc, offset_eq]
  rw [hpos, ← bufferBit_add_words, ← bufferBit_add_words, bsWrMem,
    bufferBit_writeWords hwf _ _ _ (by rwa [length_orField, length_readWords]),
    wordBit_orField w _ _ _ _ _ hfw (bsWrField_lt w s)
      (by rwa [length_readWords, Nat.div_lt_iff_lt_mul (wBits_pos w)]),
    wordBit_readWords w _ _ htouched, Nat.add_sub_cancel_left, testBit_bsWrField hfw ht]
  simp

/-! ### BS.RD (R112) -/

theorem exec_bsRd_of_ready {w : Width} {s : State} (h : BsRdReady w s) :
    exec (.bsRd w) s = .next (s.succeed { result := some (BitVec.ofNat 64 (bsRdField w s)) }) := by
  obtain ⟨hlegal, hadmitted, hquiet⟩ := h
  have hreach : ReachesCommit (bsRdRule w) s _ :=
    ⟨(bsRdChecks_pass_iff w s).mpr hlegal, hadmitted, rfl, List.forall_mem_nil _⟩
  rw [exec_bsRd, runRule_of_reachesCommit hreach hquiet]
  rfl

/-- R112: the field's bits. -/
theorem testBit_bsRdField {w : Width} {s : State} (hfw : s.fieldWidth.toNat ≤ wBits w) (t : Nat) :
    (bsRdField w s).testBit t =
      (decide (t < s.fieldWidth.toNat) && bufferBit s.mem s.srcAddr.toNat (s.bitOffset.toNat + t)) :=
  testBit_extractField_memRead s.mem s.srcAddr.toNat s.bitOffset.toNat hfw t

/-! ### BS.PACK (R113) -/

/-- The field values of BS.PACK: the elements, each masked to FIELD_WIDTH bits. -/
def maskedElements (w : Width) (s : State) : List Nat :=
  (srcElements w s).map (maskTo s.fieldWidth.toNat)

theorem length_maskedElements (w : Width) (s : State) : (maskedElements w s).length = s.count.toNat := by
  rw [maskedElements, List.length_map, srcElements, length_readWords]

theorem maskedElements_lt (w : Width) (s : State) :
    ∀ v ∈ maskedElements w s, v < 2 ^ s.fieldWidth.toNat :=
  List.forall_mem_map.mpr fun v _ => maskTo_lt _ v

theorem getD_maskedElements (w : Width) (s : State) {i : Nat} (hi : i < s.count.toNat) :
    (maskedElements w s).getD i 0 =
      maskTo s.fieldWidth.toNat (element w s.mem s.srcAddr.toNat i) := by
  have hzero : maskTo s.fieldWidth.toNat 0 = 0 := Nat.zero_mod _
  rw [maskedElements, ← hzero, List.getD_map, srcElements, getD_readWords _ _ _ _ _ hi, element]

/-- The memory after BS.PACK. -/
def bsPackMem (w : Width) (s : State) : Memory :=
  writeBytes s.mem s.dstAddr.toNat
    (wordsBytes (wBytes w) (packWords w s.fieldWidth.toNat (maskedElements w s)))

/-- The packed words take P(n, w) bytes (00_scope.md R10). -/
theorem length_packedBytes (w : Width) (s : State) :
    (wordsBytes (wBytes w) (packWords w s.fieldWidth.toNat (maskedElements w s))).length =
      packedSize w s.count.toNat s.fieldWidth.toNat := by
  rw [length_wordsBytes, length_packWords, packedSize_div, length_maskedElements]

/-- What READ prepares for BS.PACK. -/
theorem bsPackPlan_eq (w : Width) (s : State) :
    ∃ job, bsPackPlan w s = .ok job ∧ extentOf job.out = [packedPart w s] ∧
      job.commit = { outLen := some (BitVec.ofNat 64 (packedSize w s.count.toNat s.fieldWidth.toNat)) } ∧
      storePieces s.mem job.out = bsPackMem w s := by
  refine ⟨_, rfl, ?_, rfl, rfl⟩
  exact congrArg (fun n => [dstPart s n]) (length_packedBytes w s)

theorem exec_bsPack_of_ready {w : Width} {s : State} (h : BsPackReady w s) :
    exec (.bsPack w) s = .next ({ s with mem := bsPackMem w s }.succeed
      { outLen := some (BitVec.ofNat 64 (packedSize w s.count.toNat s.fieldWidth.toNat)) }) := by
  obtain ⟨hlegal, hsrc, hdst, hquiet⟩ := h
  obtain ⟨job, hplan, hextent, hcommit, hmem⟩ := bsPackPlan_eq w s
  have hreach : ReachesCommit (bsPackRule w) s job :=
    ⟨(bsPackChecks_pass_iff w s).mpr hlegal, List.forall_mem_singleton.mpr hsrc, hplan,
      hextent ▸ List.forall_mem_singleton.mpr hdst⟩
  rw [exec_bsPack, runRule_of_reachesCommit hreach hquiet, hmem, hcommit]

theorem bsPackReady_of_err_eq_zero {w : Width} {s t : State}
    (hquiet : isRaced [srcArray w s, dstBuf s] s = false) (hexec : exec (.bsPack w) s = .next t)
    (herr : t.err = 0) : BsPackReady w s := by
  obtain rfl : runRule (bsPackRule w) s = t :=
    Host.Outcome.next.inj ((exec_bsPack w s).symm.trans hexec)
  obtain ⟨job, hchecks, hreads, hplan, hwrites⟩ := reachesCommit_of_err_eq_zero herr
  obtain ⟨job', hplan', hextent, -, -⟩ := bsPackPlan_eq w s
  obtain rfl : job = job' := Except.ok.inj (hplan.symm.trans hplan')
  rw [hextent] at hwrites
  exact ⟨(bsPackChecks_pass_iff w s).mp hchecks, List.forall_mem_singleton.mp hreads,
    List.forall_mem_singleton.mp hwrites, hquiet⟩

/-- R113: bit t of field i is bit t of element i. -/
theorem bufferBit_bsPackMem {w : Width} {s : State} (hwf : Memory.wf s.mem = true)
    (hfw : s.fieldWidth.toNat ≤ wBits w) {i t : Nat} (hi : i < s.count.toNat)
    (ht : t < s.fieldWidth.toNat) :
    bufferBit (bsPackMem w s) s.dstAddr.toNat (i * s.fieldWidth.toNat + t) =
      (element w s.mem s.srcAddr.toNat i).testBit t := by
  have hlen := length_maskedElements w s
  rw [bsPackMem, bufferBit_writeWords hwf _ _ _
      (by rw [length_packWords, hlen]; exact field_lt_packedWords w hi ht),
    wordBit_packWords hfw (maskedElements_lt w s) ht (hlen.symm ▸ hi), getD_maskedElements w s hi,
    testBit_maskTo]
  simp [ht]

/-- The P(n, w) bytes of a legal BS.PACK, as OUT_LEN and as the SRC_LEN they are unpacked with. -/
theorem toNat_packedSize_of_legal {w : Width} {s : State} (h : BsPackLegal w s) :
    (BitVec.ofNat 64 (packedSize w s.count.toNat s.fieldWidth.toNat)).toNat =
      packedSize w s.count.toNat s.fieldWidth.toNat := by
  obtain ⟨-, -, -, -, -, -, -, hcap⟩ := h
  rw [BitVec.toNat_ofNat, Nat.mod_eq_of_lt (hcap.trans_lt s.dstCap.isLt)]

/-! ### BS.UNPACK (R114) -/

/-- The memory after BS.UNPACK. -/
def bsUnpackMem (w : Width) (s : State) : Memory :=
  writeBytes s.mem s.dstAddr.toNat (wordsBytes (wBytes w)
    (unpackFields w s.fieldWidth.toNat (packedWords w s) s.count.toNat))

theorem length_unpackFields (w : Width) (fw : Nat) (xs : List Nat) (n : Nat) :
    (unpackFields w fw xs n).length = n := by
  rw [unpackFields, List.length_map, List.length_range]

theorem getD_unpackFields (w : Width) (fw : Nat) (xs : List Nat) {n i : Nat} (hi : i < n) :
    (unpackFields w fw xs n).getD i 0 = fieldAt w fw xs i := by
  simp [unpackFields, List.getD_eq_getElem?_getD, hi]

/-- What READ prepares for BS.UNPACK. -/
theorem bsUnpackPlan_eq (w : Width) (s : State) :
    ∃ job, bsUnpackPlan w s = .ok job ∧ extentOf job.out = [elementsPart w s] ∧
      job.commit = { outLen := some (BitVec.ofNat 64 (s.count.toNat * wBytes w)) } ∧
      storePieces s.mem job.out = bsUnpackMem w s := by
  refine ⟨_, rfl, ?_, rfl, rfl⟩
  simp only [wordsJob, extentOf, List.map_cons, List.map_nil, length_wordsBytes, length_unpackFields,
    elementsPart, dstPart]

theorem exec_bsUnpack_of_ready {w : Width} {s : State} (h : BsUnpackReady w s) :
    exec (.bsUnpack w) s = .next ({ s with mem := bsUnpackMem w s }.succeed
      { outLen := some (BitVec.ofNat 64 (s.count.toNat * wBytes w)) }) := by
  obtain ⟨hlegal, hsrc, hdst, hquiet⟩ := h
  obtain ⟨job, hplan, hextent, hcommit, hmem⟩ := bsUnpackPlan_eq w s
  have hreach : ReachesCommit (bsUnpackRule w) s job :=
    ⟨(bsUnpackChecks_pass_iff w s).mpr hlegal, List.forall_mem_singleton.mpr hsrc, hplan,
      hextent ▸ List.forall_mem_singleton.mpr hdst⟩
  rw [exec_bsUnpack, runRule_of_reachesCommit hreach hquiet, hmem, hcommit]

/-- R114: element i is field i of the packed source. -/
theorem testBit_element_bsUnpackMem {w : Width} {s : State} (hwf : Memory.wf s.mem = true)
    (hlegal : BsUnpackLegal w s) {i : Nat} (hi : i < s.count.toNat) (t : Nat) :
    (element w (bsUnpackMem w s) s.dstAddr.toNat i).testBit t =
      (decide (t < s.fieldWidth.toNat) &&
        bufferBit s.mem s.srcAddr.toNat (i * s.fieldWidth.toNat + t)) := by
  obtain ⟨⟨hpos, hfw⟩, -, -, -, -, -, -, hlen, -⟩ := hlegal
  have hend : (i + 1) * s.fieldWidth.toNat ≤ s.srcLen.toNat / wBytes w * wBits w :=
    calc (i + 1) * s.fieldWidth.toNat ≤ s.count.toNat * s.fieldWidth.toNat := Nat.mul_le_mul_right _ hi
      _ ≤ s.srcLen.toNat / wBytes w * wBits w := hlen ▸ le_packedWords w _ _
  rw [bsUnpackMem, element_writeWords hwf _ _ _ (by rwa [length_unpackFields]),
    getD_unpackFields w _ _ hi, testBit_maskTo, packedWords,
    testBit_fieldAt_readWords s.mem _ hfw hpos hend]
  by_cases ht : t < s.fieldWidth.toNat
  · simp [ht, ht.trans_le hfw]
  · simp [ht]

/-! ### The round trip of BS.WR and BS.RD (R115) -/

/-- BS.RD in `u` names the field that BS.WR in `s` names. -/
structure ReadsField (s u : State) : Prop where
  cfg : u.cfg = s.cfg
  addr : u.srcAddr = s.dstAddr
  len : u.srcLen = s.dstCap
  offset : u.bitOffset = s.bitOffset
  width : u.fieldWidth = s.fieldWidth

/-- A field that BS.WR could write, BS.RD can read: both touch the same words. -/
theorem bsRdReady_of_bsWrReady {w : Width} {s u : State} (h : BsWrReady w s) (hu : ReadsField s u)
    (hquiet : isRaced [srcBuf u] u = false) : BsRdReady w u := by
  obtain ⟨hcfg, hsrc, hlen, hoff, hwidth⟩ := hu
  obtain ⟨hlegal, hadmitted, -⟩ := h
  refine ⟨?_, ?_, hquiet⟩
  · rw [BsRdLegal, WidthOk, InSpace, srcBuf, hcfg, hsrc, hlen, hoff, hwidth]
    exact hlegal
  · rw [bsRdWords, hcfg, hsrc, hoff, hwidth]
    exact hadmitted

/-- The field read after BS.WR is the value, where the value fits the field and the field's bits were 0. -/
theorem bsRdField_of_bsWrMem {w : Width} {s u : State} (hwf : Memory.wf s.mem = true)
    (hfw : s.fieldWidth.toNat ≤ wBits w) (hu : ReadsField s u) (hmem : u.mem = bsWrMem w s)
    (hvalue : s.value.toNat < 2 ^ s.fieldWidth.toNat)
    (hzero : ∀ p, s.bitOffset.toNat ≤ p → p < s.bitOffset.toNat + s.fieldWidth.toNat →
      bufferBit s.mem s.dstAddr.toNat p = false) :
    bsRdField w u = s.value.toNat := by
  obtain ⟨-, hsrc, -, hoff, hwidth⟩ := hu
  refine Nat.eq_of_testBit_eq fun k => ?_
  rw [testBit_bsRdField (hwidth ▸ hfw), hwidth, hmem, hsrc, hoff]
  by_cases hk : k < s.fieldWidth.toNat
  · rw [bufferBit_bsWrMem hwf hfw hk, hzero _ (by omega) (by omega)]
    simp [hk, BitVec.getLsbD]
  · have hbit : s.value.toNat.testBit k = false :=
      Nat.testBit_lt_two_pow (hvalue.trans_le (Nat.pow_le_pow_right (by decide) (by omega)))
    simp [hk, hbit]

/-! ### The round trip of BS.PACK and BS.UNPACK (R115) -/

/-- BS.UNPACK in `u` names the packed output of BS.PACK in `s`. -/
structure ReadsPacked (w : Width) (s u : State) : Prop where
  cfg : u.cfg = s.cfg
  addr : u.srcAddr = s.dstAddr
  len : u.srcLen.toNat = packedSize w s.count.toNat s.fieldWidth.toNat
  count : u.count = s.count
  width : u.fieldWidth = s.fieldWidth

/-- What BS.PACK could pack, BS.UNPACK can unpack into a legal destination. -/
theorem bsUnpackReady_of_bsPackReady {w : Width} {s u : State} (h : BsPackReady w s)
    (hu : ReadsPacked w s u) (hdst : DestinationOk w u) (hapart : Apart (srcBuf u) (dstBuf u))
    (hquiet : isRaced [srcBuf u, dstBuf u] u = false) : BsUnpackReady w u := by
  obtain ⟨hcfg, hsrc, hlen, hcount, hwidth⟩ := hu
  obtain ⟨⟨hfw, hn, -, halign, -, hspace, -, hcap⟩, -, hadmitted, -⟩ := h
  obtain ⟨halign', hspace', hcap', hadmitted'⟩ := hdst
  have hbuf : srcBuf u = packedPart w s := by rw [srcBuf, hsrc, hlen, packedPart, dstPart]
  have hsrcSpace : InSpace u (srcBuf u) := by
    rw [InSpace, hbuf, hcfg]
    exact (Nat.add_le_add_left hcap _).trans hspace
  refine ⟨⟨?_, ?_, ?_, halign', hsrcSpace, hspace', hapart, ?_, hcap'⟩, ?_, hadmitted', hquiet⟩
  · rwa [WidthOk, hwidth]
  · rwa [CountOk, hcount]
  · rwa [hsrc]
  · rw [hlen, hcount, hwidth]
  · rwa [hbuf, hcfg]

/-- An element unpacked after BS.PACK is the element packed, masked to FIELD_WIDTH bits. -/
theorem element_bsUnpackMem_of_bsPackMem {w : Width} {s u : State} (hwf : Memory.wf s.mem = true)
    (hu : ReadsPacked w s u) (hmem : u.mem = bsPackMem w s) (hlegal : BsUnpackLegal w u) {i : Nat}
    (hi : i < s.count.toNat) :
    element w (bsUnpackMem w u) u.dstAddr.toNat i =
      element w s.mem s.srcAddr.toNat i % 2 ^ s.fieldWidth.toNat := by
  obtain ⟨-, hsrc, -, hcount, hwidth⟩ := hu
  have hwf' : Memory.wf u.mem = true := hmem ▸ writeBytes_wf _ _ hwf
  have ⟨⟨_, hfw⟩, _⟩ := hlegal
  rw [hwidth] at hfw
  refine Nat.eq_of_testBit_eq fun k => ?_
  rw [testBit_element_bsUnpackMem hwf' hlegal (hcount ▸ hi), Nat.testBit_mod_two_pow, hwidth, hmem, hsrc]
  by_cases hk : k < s.fieldWidth.toNat
  · rw [bufferBit_bsPackMem hwf hfw hi hk]
  · simp [hk]

/-- Settles O36: the field read back has the bits of the value written, as its bits were 0 before; the fields
unpacked have the bits of the elements packed, FIELD_WIDTH of each. -/
theorem bitRoundTrip : Obligations.BitRoundTrip := by
  constructor
  · intro w s t u hwf hquiet hexec herr hvalue hzero hcfg hmem hsrc hlen hoff hwidth hquiet'
    have hwr := bsWrReady_of_err_eq_zero hquiet hexec herr
    obtain rfl := Host.Outcome.next.inj ((exec_bsWr_of_ready hwr).symm.trans hexec)
    have hu : ReadsField s u := ⟨hcfg, hsrc, hlen, hoff, hwidth⟩
    have ⟨⟨⟨_, hfw⟩, _⟩, _⟩ := hwr
    have hfield := bsRdField_of_bsWrMem hwf hfw hu hmem hvalue hzero
    refine ⟨_, exec_bsRd_of_ready (bsRdReady_of_bsWrReady hwr hu hquiet'), rfl, ?_⟩
    rw [succeed_result, Option.getD_some, hfield, BitVec.ofNat_toNat, BitVec.setWidth_eq]
  · intro w s t u hwf hquiet hexec herr hcfg hmem hsrc hlen hcount hwidth hdst hapart hquiet'
    have hpack := bsPackReady_of_err_eq_zero hquiet hexec herr
    obtain rfl := Host.Outcome.next.inj ((exec_bsPack_of_ready hpack).symm.trans hexec)
    have hsize : u.srcLen.toNat = packedSize w s.count.toNat s.fieldWidth.toNat := by
      rw [hlen, succeed_outLen, Option.getD_some, toNat_packedSize_of_legal hpack.1]
    have hu : ReadsPacked w s u := ⟨hcfg, hsrc, hsize, hcount, hwidth⟩
    have hunpack := bsUnpackReady_of_bsPackReady hpack hu hdst hapart hquiet'
    exact ⟨_, exec_bsUnpack_of_ready hunpack, rfl, fun i hi =>
      element_bsUnpackMem_of_bsPackMem hwf hu hmem hunpack.1 hi⟩

end Sys2Proof.Proofs
end

section
/-!
PROOF. The round trip of DD.ENC and DD.DEC (41_delta_codec.md R130 to R134). The field of an element is its
distance to the least element. All fields fit the delta width, so packing and unpacking keep them, and adding
MIN back gives the element modulo 2^W.
-/

namespace Sys2Proof.Proofs

open Sys2Proof Sys2Proof.Machine Sys2Proof.Safety Sys2Proof.Laws

/-! ### Words read as signed numbers (00_scope.md R7) -/

theorem signedOf_mem_Ico {w : Width} {v : Nat} (hv : v < 2 ^ wBits w) :
    signedOf (wBits w) v ∈ Set.Ico (-2 ^ (wBits w - 1)) (2 ^ (wBits w - 1)) := by
  rw [Set.mem_Ico, signedOf]
  split <;> cases w <;> simp only [wBits] at * <;> omega

theorem signedOf_emod {w : Width} {v : Nat} (hv : v < 2 ^ wBits w) :
    signedOf (wBits w) v % 2 ^ wBits w = v := by
  have hmod : (v : Int) % 2 ^ wBits w = v := Int.emod_eq_of_lt (by omega) (mod_cast hv)
  rw [signedOf]
  split
  · exact hmod
  · rw [Int.sub_emod_right, hmod]

/-- A number, as MIN keeps it, read at either width. -/
theorem lowBits_wordOfInt (w : Width) (i : Int) : (lowBits w (wordOfInt i) : Int) = i % 2 ^ wBits w := by
  cases w <;> simp only [lowBits, maskTo, wordOfInt, BitVec.toNat_ofInt, wBits] <;> omega

/-- The least element, as MIN keeps it, and an element's distance to it add up to the element again. -/
theorem maskTo_lowBits_add_distance {w : Width} {v : Nat} {mn : Int} (hv : v < 2 ^ wBits w)
    (hmn : mn ≤ signedOf (wBits w) v) :
    maskTo (wBits w) (lowBits w (wordOfInt mn) + (signedOf (wBits w) v - mn).toNat) = v := by
  rw [maskTo, ← Int.natCast_inj]
  push_cast
  rw [lowBits_wordOfInt, Int.toNat_of_nonneg (Int.sub_nonneg_of_le hmn), Int.emod_add_emod,
    add_sub_cancel, signedOf_emod hv]

/-! ### The range and the fields of a list of numbers (R130, R132) -/

theorem isLeast_leastOf {xs : List Int} {x : Int} (hx : x ∈ xs) : IsLeast {y | y ∈ xs} (leastOf xs) := by
  obtain ⟨mn, hmn⟩ := Option.isSome_iff_exists.mp (List.isSome_min?_of_mem hx)
  rw [leastOf, hmn]
  exact List.min?_eq_some_iff.mp hmn

theorem isGreatest_greatestOf {xs : List Int} {x : Int} (hx : x ∈ xs) :
    IsGreatest {y | y ∈ xs} (greatestOf xs) := by
  obtain ⟨mx, hmx⟩ := Option.isSome_iff_exists.mp (List.isSome_max?_of_mem hx)
  rw [greatestOf, hmx]
  exact List.max?_eq_some_iff.mp hmx

/-- Every field fits the delta width. -/
theorem deltaFields_lt (xs : List Int) : ∀ v ∈ deltaFields xs, v < 2 ^ deltaWidth xs := by
  refine List.forall_mem_map.mpr fun x hx => lt_of_le_of_lt ?_ (lt_two_pow_bitsNeeded _)
  exact Int.toNat_le_toNat (Int.sub_le_sub_right ((isGreatest_greatestOf hx).2 hx) _)

/-- Elements of W bits have a delta width of at most W. -/
theorem deltaWidth_le {w : Width} {xs : List Int} {x : Int} (hx : x ∈ xs)
    (hxs : ∀ y ∈ xs, y ∈ Set.Ico (-2 ^ (wBits w - 1)) (2 ^ (wBits w - 1))) :
    deltaWidth xs ≤ wBits w := by
  have ⟨hmn, _⟩ := hxs _ (isLeast_leastOf hx).1
  have ⟨_, hmx⟩ := hxs _ (isGreatest_greatestOf hx).1
  rw [deltaWidth, bitsNeeded_le_iff]
  cases w <;> simp only [wBits] at hmn hmx ⊢ <;> omega

theorem readWords_eq_map (m : Memory) (B a n : Nat) :
    readWords m B a n = (List.range n).map fun i => memRead m (a + i * B) B := by
  refine List.ext_getElem (by simp [length_readWords]) fun i hi _ => ?_
  rw [length_readWords] at hi
  rw [← List.getD_eq_getElem _ 0, getD_readWords m B a n i hi]
  simp

theorem signedElements_eq_map (w : Width) (s : State) :
    signedElements w s = (List.range s.count.toNat).map fun i =>
      signedOf (wBits w) (element w s.mem s.srcAddr.toNat i) := by
  rw [signedElements, srcElements, readWords_eq_map, List.map_map]
  rfl

theorem element_lt (w : Width) (m : Memory) (a i : Nat) : element w m a i < 2 ^ wBits w :=
  memRead_lt_two_pow w m _

theorem signedOf_element_mem (w : Width) (s : State) {i : Nat} (hi : i < s.count.toNat) :
    signedOf (wBits w) (element w s.mem s.srcAddr.toNat i) ∈ signedElements w s := by
  rw [signedElements_eq_map]
  exact List.mem_map_of_mem (List.mem_range.mpr hi)

/-- The width DD.ENC leaves in BITWIDTH. -/
def ddEncWidth (w : Width) (s : State) : Nat := deltaWidth (signedElements w s)

theorem ddEncWidth_le {w : Width} {s : State} (h : CountOk s) : ddEncWidth w s ≤ wBits w := by
  refine deltaWidth_le (signedOf_element_mem w s h.1) ?_
  rw [signedElements_eq_map]
  exact List.forall_mem_map.mpr fun i _ => signedOf_mem_Ico (element_lt w _ _ i)

theorem length_deltaFields (w : Width) (s : State) :
    (deltaFields (signedElements w s)).length = s.count.toNat := by
  simp [deltaFields, signedElements_eq_map]

theorem getD_deltaFields (w : Width) (s : State) {i : Nat} (hi : i < s.count.toNat) :
    (deltaFields (signedElements w s)).getD i 0 =
      (signedOf (wBits w) (element w s.mem s.srcAddr.toNat i) - leastOf (signedElements w s)).toNat := by
  rw [deltaFields]
  generalize leastOf (signedElements w s) = mn
  simp [signedElements_eq_map, hi]

/-! ### Packed words, stored and read back -/

/-- A field of the packed words is the value packed, the fields of width 0 included. -/
theorem fieldAt_readWords_of_packWords {w : Width} {m : Memory} (hwf : Memory.wf m = true) (a : Nat)
    {fw : Nat} (hfw : fw ≤ wBits w) {vs : List Nat} (hvs : ∀ v ∈ vs, v < 2 ^ fw) {i : Nat}
    (hi : i < vs.length) :
    fieldAt w fw
        (readWords (writeBytes m a (wordsBytes (wBytes w) (packWords w fw vs))) (wBytes w) a
          (packedSize w vs.length fw / wBytes w)) i =
      vs.getD i 0 := by
  have hv : vs.getD i 0 < 2 ^ fw := by
    rw [List.getD_eq_getElem _ _ hi]
    exact hvs _ (List.getElem_mem hi)
  obtain rfl | hpos := Nat.eq_zero_or_pos fw
  · rw [pow_zero, Nat.lt_one_iff] at hv
    rw [hv, fieldAt, extractField, maskTo, pow_zero, Nat.mod_one]
  refine Nat.eq_of_testBit_eq fun t => ?_
  have hend : (i + 1) * fw ≤ packedSize w vs.length fw / wBytes w * wBits w :=
    (Nat.mul_le_mul_right _ hi).trans (le_packedWords w _ _)
  rw [testBit_fieldAt_readWords _ a hfw hpos hend]
  by_cases ht : t < fw
  · rw [bufferBit_writeWords hwf _ _ _ (by rw [length_packWords]; exact field_lt_packedWords w hi ht),
      wordBit_packWords hfw hvs ht hi]
    simp [ht]
  · have hbit : (vs.getD i 0).testBit t = false :=
      Nat.testBit_lt_two_pow (hv.trans_le (Nat.pow_le_pow_right (by decide) (by omega)))
    rw [hbit]
    simp [ht]

/-! ### DD.ENC (R132) -/

theorem ddEncChecks_pass_iff (w : Width) (s : State) :
    firstFailure (ddEncChecks w s) = none ↔ DdEncLegal w s := by
  simp [firstFailure_eq_none_iff, ddEncChecks, DdEncLegal, badCount_eq_false_iff,
    notMultiple_eq_false_iff, outOfSpace_eq_false_iff, disjoint_iff]

/-- The size of the payload in bytes, OUT_LEN. -/
def payloadSize (w : Width) (s : State) : Nat := packedSize w s.count.toNat (ddEncWidth w s)

/-- The payload DD.ENC writes. -/
def payloadPart (w : Width) (s : State) : Buf := dstPart s (payloadSize w s)

/-- The memory after DD.ENC. -/
def ddEncMem (w : Width) (s : State) : Memory :=
  writeBytes s.mem s.dstAddr.toNat
    (wordsBytes (wBytes w) (packWords w (ddEncWidth w s) (deltaFields (signedElements w s))))

/-- The result registers of DD.ENC. -/
def ddEncCommit (w : Width) (s : State) : Commit :=
  { minReg := some (wordOfInt (leastOf (signedElements w s)))
    bitWidth := some (BitVec.ofNat 64 (ddEncWidth w s))
    outLen := some (BitVec.ofNat 64 (payloadSize w s)) }

/-- DD.ENC succeeds: it is ready, the payload fits and none of its bytes is refused. -/
structure DdEncSucceeds (w : Width) (s : State) : Prop where
  ready : DdEncReady w s
  fits : payloadSize w s ≤ s.dstCap.toNat
  writes : Admitted s.cfg (payloadPart w s)

theorem ddEncPlan_of_short {w : Width} {s : State} (h : s.dstCap.toNat < payloadSize w s) :
    ddEncPlan w s = .error .capacity := if_pos h

/-- What READ prepares for DD.ENC when the payload fits. -/
theorem ddEncPlan_of_fits {w : Width} {s : State} (h : payloadSize w s ≤ s.dstCap.toNat) :
    ∃ job, ddEncPlan w s = .ok job ∧ extentOf job.out = [payloadPart w s] ∧
      job.commit = ddEncCommit w s ∧ storePieces s.mem job.out = ddEncMem w s := by
  refine ⟨_, if_neg (Nat.not_lt.mpr h), ?_, rfl, rfl⟩
  simp only [extentOf, List.map_cons, List.map_nil, length_wordsBytes, length_packWords, packedSize_div,
    length_deltaFields]
  rfl

theorem exec_ddEnc_of_succeeds {w : Width} {s : State} (h : DdEncSucceeds w s) :
    exec (.ddEnc w) s = .next ({ s with mem := ddEncMem w s }.succeed (ddEncCommit w s)) := by
  obtain ⟨⟨hlegal, hsrc, hquiet⟩, hfits, hdst⟩ := h
  obtain ⟨job, hplan, hextent, hcommit, hmem⟩ := ddEncPlan_of_fits hfits
  have hreach : ReachesCommit (ddEncRule w) s job :=
    ⟨(ddEncChecks_pass_iff w s).mpr hlegal, List.forall_mem_singleton.mpr hsrc, hplan,
      hextent ▸ List.forall_mem_singleton.mpr hdst⟩
  rw [exec_ddEnc, runRule_of_reachesCommit hreach hquiet, hmem, hcommit]

theorem ddEncSucceeds_of_err_eq_zero {w : Width} {s t : State}
    (hquiet : isRaced [srcArray w s, dstBuf s] s = false) (hexec : exec (.ddEnc w) s = .next t)
    (herr : t.err = 0) : DdEncSucceeds w s := by
  obtain rfl : runRule (ddEncRule w) s = t :=
    Host.Outcome.next.inj ((exec_ddEnc w s).symm.trans hexec)
  obtain ⟨job, hchecks, hreads, hplan, hwrites⟩ := reachesCommit_of_err_eq_zero herr
  have hready : DdEncReady w s :=
    ⟨(ddEncChecks_pass_iff w s).mp hchecks, List.forall_mem_singleton.mp hreads, hquiet⟩
  obtain hshort | hfits := Nat.lt_or_ge s.dstCap.toNat (payloadSize w s)
  · cases (ddEncPlan_of_short hshort).symm.trans hplan
  · obtain ⟨job', hplan', hextent, -, -⟩ := ddEncPlan_of_fits hfits
    obtain rfl : job = job' := Except.ok.inj (hplan.symm.trans hplan')
    rw [hextent] at hwrites
    exact ⟨hready, hfits, List.forall_mem_singleton.mp hwrites⟩

/-! ### DD.DEC (R133) -/

theorem ddDecChecks_pass_of_legal {w : Width} {bw : Nat} {s : State} (h : DdDecLegal w bw s) :
    firstFailure (ddDecChecks w s) = none := by
  obtain ⟨hwidth, hle, hlegal⟩ := h
  simpa [firstFailure_eq_none_iff, ddDecChecks, headerWidth, hwidth, hle, badCount_eq_false_iff,
    notMultiple_eq_false_iff, outOfSpace_eq_false_iff, disjoint_iff] using hlegal

/-- The memory after DD.DEC. -/
def ddDecMem (w : Width) (s : State) : Memory :=
  writeBytes s.mem s.dstAddr.toNat (wordsBytes (wBytes w) (deltaDecoded w s))

theorem length_deltaDecoded (w : Width) (s : State) : (deltaDecoded w s).length = s.count.toNat := by
  rw [deltaDecoded, List.length_map, length_unpackFields]

theorem getD_deltaDecoded {w : Width} {bw : Nat} {s : State} (hbw : s.bitWidth.toInt = bw) {i : Nat}
    (hi : i < s.count.toNat) :
    (deltaDecoded w s).getD i 0 =
      maskTo (wBits w) (lowBits w s.minReg + fieldAt w bw (packedWords w s) i) := by
  simp [deltaDecoded, unpackFields, headerWidth, hbw, hi]

/-- What READ prepares for DD.DEC. -/
theorem ddDecPlan_eq (w : Width) (s : State) :
    ∃ job, ddDecPlan w s = .ok job ∧ extentOf job.out = [elementsPart w s] ∧
      job.commit = { outLen := some (BitVec.ofNat 64 (s.count.toNat * wBytes w)) } ∧
      storePieces s.mem job.out = ddDecMem w s := by
  refine ⟨_, rfl, ?_, rfl, rfl⟩
  simp only [wordsJob, extentOf, List.map_cons, List.map_nil, length_wordsBytes, length_deltaDecoded,
    elementsPart, dstPart]

theorem exec_ddDec_of_ready {w : Width} {bw : Nat} {s : State} (h : DdDecReady w bw s) :
    exec (.ddDec w) s = .next ({ s with mem := ddDecMem w s }.succeed
      { outLen := some (BitVec.ofNat 64 (s.count.toNat * wBytes w)) }) := by
  obtain ⟨hlegal, hsrc, hdst, hquiet⟩ := h
  obtain ⟨job, hplan, hextent, hcommit, hmem⟩ := ddDecPlan_eq w s
  have hreach : ReachesCommit (ddDecRule w) s job :=
    ⟨ddDecChecks_pass_of_legal hlegal, List.forall_mem_singleton.mpr hsrc, hplan,
      hextent ▸ List.forall_mem_singleton.mpr hdst⟩
  rw [exec_ddDec, runRule_of_reachesCommit hreach hquiet, hmem, hcommit]

/-- R133: element i is MIN plus field i, modulo 2^W. -/
theorem element_ddDecMem {w : Width} {bw : Nat} {s : State} (hwf : Memory.wf s.mem = true)
    (hbw : s.bitWidth.toInt = bw) {i : Nat} (hi : i < s.count.toNat) :
    element w (ddDecMem w s) s.dstAddr.toNat i =
      maskTo (wBits w) (lowBits w s.minReg + fieldAt w bw (packedWords w s) i) := by
  rw [ddDecMem, element_writeWords hwf _ _ _ (by rwa [length_deltaDecoded]), getD_deltaDecoded hbw hi]
  exact Nat.mod_mod _ _

/-! ### The round trip (R134) -/

/-- DD.DEC in `u` names the payload and the header of DD.ENC in `s`. -/
structure ReadsPayload (w : Width) (s u : State) : Prop where
  cfg : u.cfg = s.cfg
  mem : u.mem = ddEncMem w s
  addr : u.srcAddr = s.dstAddr
  len : u.srcLen.toNat = payloadSize w s
  count : u.count = s.count
  least : u.minReg = wordOfInt (leastOf (signedElements w s))
  width : u.bitWidth.toInt = ddEncWidth w s

/-- A delta width, as BITWIDTH keeps it, reads as itself. -/
theorem toInt_ddEncWidth {w : Width} {s : State} (h : CountOk s) :
    (BitVec.ofNat 64 (ddEncWidth w s)).toInt = ddEncWidth w s := by
  have hle := ddEncWidth_le (w := w) h
  have hW : wBits w ≤ 64 := by cases w <;> decide
  rw [BitVec.toInt_ofNat', Int.bmod_eq_of_le] <;> omega

theorem toNat_payloadSize {w : Width} {s : State} (h : payloadSize w s ≤ s.dstCap.toNat) :
    (BitVec.ofNat 64 (payloadSize w s)).toNat = payloadSize w s := by
  rw [BitVec.toNat_ofNat, Nat.mod_eq_of_lt (h.trans_lt s.dstCap.isLt)]

/-- What DD.ENC could encode, DD.DEC can decode into a legal destination. -/
theorem ddDecReady_of_ddEncSucceeds {w : Width} {s u : State} (h : DdEncSucceeds w s)
    (hu : ReadsPayload w s u) (hdst : DestinationOk w u) (hapart : Apart (srcBuf u) (dstBuf u))
    (hquiet : isRaced [srcBuf u, dstBuf u] u = false) : DdDecReady w (ddEncWidth w s) u := by
  obtain ⟨hcfg, -, hsrc, hlen, hcount, -, hwidth⟩ := hu
  obtain ⟨⟨⟨hn, -, halign, -, hspace, -⟩, -, -⟩, hfits, hwrites⟩ := h
  obtain ⟨halign', hspace', hcap', hadmitted'⟩ := hdst
  have hbuf : srcBuf u = payloadPart w s := by rw [srcBuf, hsrc, hlen, payloadPart, dstPart]
  have hsrcSpace : InSpace u (srcBuf u) := by
    rw [InSpace, hbuf, hcfg]
    exact (Nat.add_le_add_left hfits _).trans hspace
  refine ⟨⟨hwidth, ddEncWidth_le hn, ?_, ?_, ?_, halign', hsrcSpace, hspace', hapart, hcap'⟩, ?_,
    hadmitted', hquiet⟩
  · rwa [CountOk, hcount]
  · rw [hlen, hcount, payloadSize]
  · rwa [hsrc]
  · rwa [hbuf, hcfg]

/-- The field DD.DEC reads is the distance of the element to the least one. -/
theorem fieldAt_of_readsPayload {w : Width} {s u : State} (hwf : Memory.wf s.mem = true)
    (hn : CountOk s) (hu : ReadsPayload w s u) {i : Nat} (hi : i < s.count.toNat) :
    fieldAt w (ddEncWidth w s) (packedWords w u) i =
      (signedOf (wBits w) (element w s.mem s.srcAddr.toNat i) - leastOf (signedElements w s)).toNat := by
  have hlen := length_deltaFields w s
  have hfield := fieldAt_readWords_of_packWords hwf s.dstAddr.toNat (ddEncWidth_le hn)
    (deltaFields_lt (signedElements w s)) (hlen.symm ▸ hi)
  rw [hlen, getD_deltaFields w s hi] at hfield
  rw [packedWords, hu.mem, hu.addr, hu.len]
  exact hfield

theorem element_ddDecMem_of_readsPayload {w : Width} {s u : State} (hwf : Memory.wf s.mem = true)
    (hn : CountOk s) (hu : ReadsPayload w s u) {i : Nat} (hi : i < s.count.toNat) :
    element w (ddDecMem w u) u.dstAddr.toNat i = element w s.mem s.srcAddr.toNat i := by
  have hwf' : Memory.wf u.mem = true := hu.mem ▸ writeBytes_wf _ _ hwf
  have hmem := signedOf_element_mem w s hi
  rw [element_ddDecMem hwf' hu.width (hu.count ▸ hi), fieldAt_of_readsPayload hwf hn hu hi, hu.least]
  exact maskTo_lowBits_add_distance (element_lt w _ _ i) ((isLeast_leastOf hmem).2 hmem)

/-- Settles O42: what DD.ENC left satisfies DD.DEC's checks, its fields are the distances to the least element,
and MIN added to them gives the elements. -/
theorem deltaRoundTrip : Obligations.DeltaRoundTrip := by
  intro w s t u hwf hquiet hexec herr hcfg hmem hsrc hlen hcount hmin hwidth hdst hapart hquiet'
  have henc := ddEncSucceeds_of_err_eq_zero hquiet hexec herr
  have ⟨⟨⟨hn, _⟩, _⟩, hfits, _⟩ := henc
  obtain rfl := Host.Outcome.next.inj ((exec_ddEnc_of_succeeds henc).symm.trans hexec)
  have hu : ReadsPayload w s u :=
    ⟨hcfg, hmem, hsrc, hlen ▸ toNat_payloadSize hfits, hcount, hmin, hwidth ▸ toInt_ddEncWidth hn⟩
  exact ⟨_, exec_ddDec_of_ready (ddDecReady_of_ddEncSucceeds henc hu hdst hapart hquiet'), rfl,
    fun i hi => element_ddDecMem_of_readsPayload hwf hn hu hi⟩

end Sys2Proof.Proofs
end

section
/-!
PROOF. Illegal command words (30_encoding.md R89), acceptance (R92) and the completion of an illegal word
(R93). What the three tests say of a word's fields is said of its number once.
-/

namespace Sys2Proof.Proofs

open Sys2Proof Sys2Proof.Machine Sys2Proof.Safety Sys2Proof.Laws

/-- Settles O2: decoding is the inverse of encoding on both sides. -/
theorem decodeEncodeAgree : Obligations.DecodeEncodeAgree :=
  ⟨decode_encode, fun _ _ => encode_of_decode⟩

/-! ### The fields of a word, as numbers (R85) -/

theorem toNat_opc (c : Word) : (cmdFields c).opc.toNat = c.toNat % 256 := by
  simp [cmdFields]

theorem w_eq_true_iff (c : Word) : (cmdFields c).w = true ↔ c.toNat / 256 % 2 = 1 := by
  simp [cmdFields, BitVec.getLsbD, Nat.testBit_eq_decide_div_mod_eq]

theorem rsv_eq_zero_iff (c : Word) : (cmdFields c).rsv = 0 ↔ c.toNat / 2 ^ 9 = 0 := by
  have hc := c.isLt
  rw [← BitVec.toNat_inj]
  simp only [cmdFields, BitVec.extractLsb'_toNat, Nat.shiftRight_eq_div_pow]
  rw [Nat.mod_eq_of_lt (by omega)]
  rfl

/-! ### The tests (R89) -/

/-- Test (1): a reserved bit is set. -/
theorem decodeFields_of_reserved {f : CmdFields} (h : f.rsv ≠ 0) :
    decodeFields f = .error .reservedBits := if_pos h

/-- Test (2): the opcode is in no line of the map. -/
theorem decodeFields_of_unmapped {f : CmdFields} (h : f.rsv = 0)
    (hf : opcodeMap.find? (fun r => r.opc == f.opc) = none) : decodeFields f = .error .badOpcode := by
  simp [decodeFields, h, hf]

/-- Test (3): a line of the map has no command for the W bit. -/
theorem decodeFields_of_mapped {f : CmdFields} {r : OpcodeRow} (h : f.rsv = 0)
    (hf : opcodeMap.find? (fun r => r.opc == f.opc) = some r) :
    decodeFields f = match rowCommand r f.w with
      | some i => .ok i
      | none => .error .reservedBits := by
  simp only [decodeFields, h, hf, ne_eq, not_true_eq_false, if_false]
  cases f.w
  · rfl
  · cases hw : r.w1 <;> simp [rowCommand, hw]

/-- The opcodes of R88, as numbers. -/
def opcodeNumbers : List Nat := [0x01, 0x02, 0x03, 0x04, 0x10, 0x11, 0x20, 0x21, 0x30, 0x31]

theorem map_opc_opcodeMap : opcodeMap.map (fun r => r.opc.toNat) = opcodeNumbers := rfl

theorem find_eq_none_iff (b : BitVec 8) :
    opcodeMap.find? (fun r => r.opc == b) = none ↔ b.toNat ∉ opcodeNumbers := by
  simp [← map_opc_opcodeMap, List.find?_eq_none, BitVec.toNat_inj]

/-- Only the lines of the byte-oriented commands have no command for W = 1. -/
theorem rowCommand_eq_none_iff :
    ∀ r ∈ opcodeMap, ∀ w, rowCommand r w = none ↔ (r.opc.toNat = 0x30 ∨ r.opc.toNat = 0x31) ∧ w = true := by
  decide

theorem decode_badOpcode_iff (c : Word) :
    decode c = .error .badOpcode ↔ c.toNat / 2 ^ 9 = 0 ∧ c.toNat % 256 ∉ opcodeNumbers := by
  rw [← rsv_eq_zero_iff, ← toNat_opc, ← find_eq_none_iff, decode]
  by_cases hrsv : (cmdFields c).rsv = 0
  · rcases hf : opcodeMap.find? (fun r => r.opc == (cmdFields c).opc) with _ | r
    · exact iff_of_true (decodeFields_of_unmapped hrsv hf) ⟨hrsv, hf⟩
    · rw [decodeFields_of_mapped hrsv hf, hf]
      cases rowCommand r (cmdFields c).w <;> simp
  · rw [decodeFields_of_reserved hrsv]
    exact iff_of_false (by simp) (fun h => hrsv h.1)

theorem decode_reservedBits_iff (c : Word) :
    decode c = .error .reservedBits ↔
      c.toNat / 2 ^ 9 ≠ 0 ∨ ((c.toNat % 256 = 0x30 ∨ c.toNat % 256 = 0x31) ∧ c.toNat / 256 % 2 = 1) := by
  rw [← toNat_opc, ← w_eq_true_iff, ne_eq, ← rsv_eq_zero_iff, decode]
  by_cases hrsv : (cmdFields c).rsv = 0
  · rcases hf : opcodeMap.find? (fun r => r.opc == (cmdFields c).opc) with _ | r
    · have hno := (find_eq_none_iff _).mp hf
      have hbyte : ¬((cmdFields c).opc.toNat = 0x30 ∨ (cmdFields c).opc.toNat = 0x31) := by
        rintro (h | h) <;> exact hno (h ▸ by decide)
      simp [decodeFields_of_unmapped hrsv hf, hrsv, hbyte]
    · have hopc : r.opc = (cmdFields c).opc := beq_iff_eq.mp (List.find?_some hf :)
      have hnone := rowCommand_eq_none_iff r (List.mem_of_find?_eq_some hf) (cmdFields c).w
      rw [decodeFields_of_mapped hrsv hf, ← hopc, ← hnone]
      cases rowCommand r (cmdFields c).w <;> simp [hrsv]
  · exact iff_of_true (decodeFields_of_reserved hrsv) (.inl hrsv)

/-- Settles O3: the two error cases of the decoder, each as the tests that lead to it. -/
theorem illegalWordsByTest : Obligations.IllegalWordsByTest :=
  fun c => ⟨decode_reservedBits_iff c, decode_badOpcode_iff c⟩

/-- Settles O4: a legal word is the encoding of its command; each illegal one meets its test. -/
theorem sampleWordsDecode : Obligations.SampleWordsDecode :=
  ⟨decode_encode .bsWr32, decode_encode .bsUnpack64, decode_encode .ddEnc32, decode_encode .ddDec64,
    decode_encode .fsSplit64, decode_encode .fsRecomb32, decode_encode .ccSelect, decode_encode .ccExpand,
    (decode_reservedBits_iff _).mpr (by decide), (decode_reservedBits_iff _).mpr (by decide),
    (decode_reservedBits_iff _).mpr (by decide), (decode_badOpcode_iff _).mpr (by decide),
    (decode_badOpcode_iff _).mpr (by decide)⟩

/-! ### Accepted words -/

theorem step_of_accepted {s : State} {c : Word} (h : s.inputs = [])
    (hm : s.engine.mode = .running c .validate) :
    step s = match decode c with
      | .ok i => exec i s
      | .error e => .next (s.fail (illegalCause e)) := by
  simp only [step, nextMove, h, hm]
  cases decode c <;> rfl

/-- Settles O6: the step's own case for an accepted word that decodes. -/
theorem stepRunsAcceptedCommand : Obligations.StepRunsAcceptedCommand := by
  intro s c i hin hmode hdec
  rw [step_of_accepted hin hmode, hdec]

/-- A host write at a register's address reaches its slot (10_state.md R31). -/
theorem step_regWrite {s : State} {r : Reg} {v : Word} {rest : List Input}
    (h : s.inputs = .regWrite (s.cfg.regBase + r.offset) 8 v :: rest) :
    step s = .next { writeOffset r.offset v { s with inputs := rest } with reply := .accepted } := by
  rw [step_of_input h]
  simp only [applyInput, hostWrite, portAccess_slot]

theorem step_cmdWrite_of_idle {s : State} {c : Word} {rest : List Input}
    (h : s.inputs = .regWrite (s.cfg.regBase + 0x18) 8 c :: rest) (hb : s.busy = false) :
    step s = .next { accept c { s with inputs := rest } with reply := .accepted } := by
  have hb' : State.busy { s with inputs := rest } = false := hb
  rw [step_regWrite (r := .cmd) h, writeOffset, regAt_offset]
  simp only [hb', Bool.false_eq_true, if_false, writeIdle]

theorem step_cmdWrite_of_busy {s : State} {c : Word} {rest : List Input}
    (h : s.inputs = .regWrite (s.cfg.regBase + 0x18) 8 c :: rest) (hb : s.busy = true) :
    step s = .next { s with inputs := rest, reply := .accepted, overrun := true } := by
  have hb' : State.busy { s with inputs := rest } = true := hb
  rw [step_regWrite (r := .cmd) h, writeOffset, regAt_offset]
  simp only [hb', if_true]

/-- Settles O5: acceptance while idle, OVERRUN while busy. -/
theorem cmdWriteAcceptance : Obligations.CmdWriteAcceptance := fun s _ _ h =>
  ⟨fun hb => ⟨_, step_cmdWrite_of_idle h hb, rfl, Bool.and_false s.ie, rfl⟩, step_cmdWrite_of_busy h⟩

/-- Settles O7: after acceptance the illegal word is at VALIDATE with nothing pending, and the next step
completes it with the error of the test it meets. -/
theorem illegalCommandCompletes : Obligations.IllegalCommandCompletes := by
  intro s c h hb
  refine ⟨_, step_cmdWrite_of_idle h hb, rfl, rfl, fun hrsv => ?_, fun hrsv hopc => ?_,
    fun hrsv hopc hw => ?_⟩
  · rw [step_of_accepted rfl rfl, (decode_reservedBits_iff c).mpr (.inl hrsv)]
    rfl
  · rw [step_of_accepted rfl rfl, (decode_badOpcode_iff c).mpr ⟨hrsv, hopc⟩]
    rfl
  · rw [step_of_accepted rfl rfl, (decode_reservedBits_iff c).mpr (.inr ⟨hopc, hw⟩)]
    rfl

end Sys2Proof.Proofs
end

section
/-!
PROOF. The register port (10_state.md R20 to R33) and reset (70_reset_and_hazards.md R200 to R202). An aligned
access of slot n meets the n-th register of the map; what a write of a slot does depends on which register that
is and on BUSY alone.
-/

namespace Sys2Proof.Proofs

open Sys2Proof Sys2Proof.Machine Sys2Proof.Safety Sys2Proof.Laws

/-! ### Which slot an access reaches (R20, R31) -/

theorem portAccess_of_aligned {p : Params} {addr size : Nat} (hlow : addr < p.regBase + 256)
    (h : size = 8 ∧ p.regBase ≤ addr ∧ (addr - p.regBase) % 8 = 0) :
    portAccess p addr size = .slot (addr - p.regBase) := by
  rw [portAccess, if_neg (by omega), if_pos h]

theorem portAccess_of_misfit {p : Params} {addr size : Nat} (hlow : addr < p.regBase + 256)
    (hhigh : p.regBase < addr + size)
    (h : ¬(size = 8 ∧ p.regBase ≤ addr ∧ (addr - p.regBase) % 8 = 0)) :
    portAccess p addr size = .refused := by
  rw [portAccess, if_neg (by omega), if_neg h]

theorem portAccess_eight_mul (p : Params) {n : Nat} (hn : n < 32) :
    portAccess p (p.regBase + 8 * n) 8 = .slot (8 * n) := by
  rw [portAccess_of_aligned (by omega) ⟨rfl, by omega, by omega⟩, Nat.add_sub_cancel_left]

/-- Settles O11: the port's three ways to take an access that touches the block. -/
theorem onlyAlignedAccessesReachRegisters : Obligations.OnlyAlignedAccessesReachRegisters := by
  intro s addr size v rest hlow hhigh
  constructor
  · intro hmis hin
    have hport := portAccess_of_misfit hlow hhigh hmis
    obtain hin | hin := hin
    · rw [step_of_input hin]
      simp only [applyInput, hostRead, hport]
    · rw [step_of_input hin]
      simp only [applyInput, hostWrite, hport]
  · intro hok
    have hport := portAccess_of_aligned hlow hok
    constructor
    · intro hin
      rw [step_of_input hin]
      simp only [applyInput, hostRead, hport]
      exact ⟨_, rfl⟩
    · intro hin
      rw [step_of_input hin]
      simp only [applyInput, hostWrite, hport]
      exact ⟨_, rfl, rfl⟩

/-! ### The register of a slot (R21) -/

theorem regAt_eight_mul : ∀ n < 32, regAt (8 * n) = allRegs[n]? := by decide

theorem readOffset_eight_mul (s : State) {n : Nat} (hn : n < 32) :
    readOffset (8 * n) s = (allRegs.map fun r => readReg r s).getD n 0 := by
  rw [readOffset, regAt_eight_mul n hn, List.getD_eq_getElem?_getD, List.getElem?_map]
  cases allRegs[n]? <;> rfl

/-- Settles O12: the registers in the order of their slots. -/
theorem registerReadsReturnTheRegister : Obligations.RegisterReadsReturnTheRegister := by
  intro s rest n hn hin
  rw [step_of_input hin]
  simp only [applyInput, hostRead, portAccess_eight_mul s.cfg hn, readOffset_eight_mul _ hn]
  rfl

/-! ### STATUS and CTRL (R24, R26) -/

theorem getLsbD_ofBool (b : Bool) (k : Nat) : (BitVec.ofBool b).getLsbD k = (decide (k = 0) && b) := by
  cases k <;> simp

theorem getLsbD_ctrlWord (s : State) (k : Nat) : (ctrlWord s).getLsbD k = (decide (k = 0) && s.ie) := by
  simp only [ctrlWord, BitVec.getLsbD_append, getLsbD_ofBool]
  by_cases hk : k = 0 <;> simp [hk]

/-- Each field of STATUS at its place; the fields are met from the lowest bit up. -/
theorem getLsbD_statusWord (s : State) (k : Nat) :
    (statusWord s).getLsbD k =
      (if k = 0 then s.busy else if k = 1 then s.done else if k = 2 then s.overrun
        else if 8 ≤ k ∧ k < 16 then s.err.getLsbD (k - 8)
        else if 16 ≤ k ∧ k < 32 then s.errSub.getLsbD (k - 16) else false) := by
  simp only [statusWord, BitVec.getLsbD_append, getLsbD_ofBool]
  simp only [Nat.sub_sub, Nat.reduceAdd]
  obtain rfl | rfl | rfl | hk : k = 0 ∨ k = 1 ∨ k = 2 ∨ 3 ≤ k := by omega
  · rfl
  · rfl
  · rfl
  · have h1 : ¬k < 1 := by omega
    have h2 : ¬k - 1 < 1 := by omega
    have h3 : ¬k - 2 < 1 := by omega
    simp only [h1, h2, h3, show k ≠ 0 by omega, show k ≠ 1 by omega, show k ≠ 2 by omega, if_false,
      decide_false]
    by_cases h8 : k < 8
    · simp [show k - 3 < 5 by omega, show ¬8 ≤ k by omega, show ¬16 ≤ k by omega]
    · by_cases h16 : k < 16
      · simp [show ¬k - 3 < 5 by omega, show k - 8 < 8 by omega, show 8 ≤ k by omega, h16]
      · by_cases h32 : k < 32
        · simp [show ¬k - 3 < 5 by omega, show ¬k - 8 < 8 by omega, show k - 16 < 16 by omega, h16,
            show 16 ≤ k by omega, h32]
        · simp [show ¬k - 3 < 5 by omega, show ¬k - 8 < 8 by omega, show ¬k - 16 < 16 by omega, h16, h32]

/-- Settles O14: the two words, bit by bit. -/
theorem statusAndCtrlBits : Obligations.StatusAndCtrlBits := fun s k =>
  ⟨getLsbD_statusWord s k, getLsbD_ctrlWord s k⟩

/-- Settles O15: STATUS is written whether BUSY or not. -/
theorem statusWriteAcknowledges : Obligations.StatusWriteAcknowledges := by
  intro s v rest hin
  rw [step_regWrite (r := .status) hin, writeOffset, regAt_offset]
  rfl

theorem step_ctrlWrite {s : State} {v : Word} {rest : List Input}
    (h : s.inputs = .regWrite (s.cfg.regBase + 0x10) 8 v :: rest) :
    step s = .next { writeCtrl v { s with inputs := rest } with reply := .accepted } := by
  rw [step_regWrite (r := .ctrl) h, writeOffset, regAt_offset]

/-- Settles O16: CTRL is written whether BUSY or not, and bit 1 clear is no reset. -/
theorem ctrlWriteSetsEnable : Obligations.CtrlWriteSetsEnable := by
  intro s v rest hin hbit
  rw [step_ctrlWrite hin, writeCtrl, hbit]
  rfl

/-! ### Writes of the other slots (R28, R32, R33) -/

theorem step_slotWrite {s : State} {n : Nat} {v : Word} {rest : List Input} (hn : n < 32)
    (h : s.inputs = .regWrite (s.cfg.regBase + 8 * n) 8 v :: rest) :
    step s = .next { writeOffset (8 * n) v { s with inputs := rest } with reply := .accepted } := by
  rw [step_of_input h]
  simp only [applyInput, hostWrite, portAccess_eight_mul s.cfg hn]

theorem writeOffset_of_busy {off : Nat} {v : Word} {s : State} (hb : s.busy = true)
    (hctrl : regAt off ≠ some .ctrl) (hstatus : regAt off ≠ some .status) :
    writeOffset off v s = { s with overrun := true } := by
  unfold writeOffset
  split
  next h => exact absurd h hctrl
  next h => exact absurd h hstatus
  next => rw [if_pos hb]
  next => rw [if_pos hb]

/-- Settles O17: slots 2 and 4 alone are CTRL and STATUS. -/
theorem busyWritesOnlySetOverrun : Obligations.BusyWritesOnlySetOverrun := by
  intro s n v rest hn h2 h4 hb hin
  have hslot : ∀ n < 32, n ≠ 2 → n ≠ 4 → allRegs[n]? ≠ some .ctrl ∧ allRegs[n]? ≠ some .status := by
    decide
  obtain ⟨hctrl, hstatus⟩ := hslot n hn h2 h4
  have hb' : State.busy { s with inputs := rest } = true := hb
  rw [step_slotWrite hn hin,
    writeOffset_of_busy hb' (by rwa [regAt_eight_mul n hn]) (by rwa [regAt_eight_mul n hn])]

/-- The registers that ignore a write (R32); ID and CAP are constant. -/
def readOnlyRegs : List Reg := [.id, .cap, .errAddr, .result, .outLen]

theorem writeOffset_of_readOnly {off : Nat} {v : Word} {s : State} (hb : s.busy = false)
    (h : ∀ r, regAt off = some r → r ∈ readOnlyRegs) : writeOffset off v s = s := by
  rcases hr : regAt off with _ | r
  · simp [writeOffset, hr, hb]
  · have hmem := h r hr
    simp only [readOnlyRegs, List.mem_cons, List.not_mem_nil, or_false] at hmem
    obtain rfl | rfl | rfl | rfl | rfl := hmem <;> simp [writeOffset, hr, hb, writeIdle]

/-- Settles O18: the slots named hold read-only registers or none. -/
theorem readOnlyWritesAreIgnored : Obligations.ReadOnlyWritesAreIgnored := by
  intro s n v rest hn hslot hb hin
  have hread : ∀ n < 32, (n = 0 ∨ n = 1 ∨ n = 5 ∨ n = 17 ∨ 21 ≤ n) →
      ∀ r ∈ allRegs[n]?, r ∈ readOnlyRegs := by decide
  have hb' : State.busy { s with inputs := rest } = false := hb
  rw [step_slotWrite hn hin, writeOffset_of_readOnly hb']
  intro r hr
  exact hread n hn hslot r (regAt_eight_mul n hn ▸ hr)

/-- The operand registers (R28). -/
def operandRegs : List Reg :=
  [.srcAddr, .srcLen, .dstAddr, .dstCap, .ch0Addr, .ch1Addr, .ch2Addr, .count, .bitOffset,
    .fieldWidth, .value, .minReg, .bitWidth, .algo]

theorem writeOffset_of_operand {r : Reg} {v : Word} {s : State} (hr : r ∈ operandRegs)
    (hb : s.busy = false) : writeOffset r.offset v s = writeIdle r v s := by
  have hctrl : r ≠ .ctrl := by rintro rfl; revert hr; decide
  have hstatus : r ≠ .status := by rintro rfl; revert hr; decide
  rw [writeOffset, regAt_offset]
  split
  next h => exact absurd (Option.some.inj h) hctrl
  next h => exact absurd (Option.some.inj h) hstatus
  next h => rw [hb, if_neg (by decide), Option.some.inj h]
  next h => cases h

/-- R28: an operand register takes the value written, and nothing else changes. -/
theorem writeIdle_operand {r : Reg} (v : Word) (s : State) (hr : r ∈ operandRegs) :
    readReg r (writeIdle r v s) = v ∧ (∀ q, q ≠ r → readReg q (writeIdle r v s) = readReg q s) ∧
      (writeIdle r v s).mem = s.mem ∧ (writeIdle r v s).engine = s.engine ∧
      (writeIdle r v s).inputs = s.inputs := by
  simp only [operandRegs, List.mem_cons, List.not_mem_nil, or_false] at hr
  obtain rfl | rfl | rfl | rfl | rfl | rfl | rfl | rfl | rfl | rfl | rfl | rfl | rfl | rfl := hr <;>
    refine ⟨rfl, fun q hq => ?_, rfl, rfl, rfl⟩ <;> cases q <;> first | rfl | exact absurd rfl hq

/-- No register shows the model's reply field. -/
theorem readReg_reply (q : Reg) (s : State) (y : Reply) :
    readReg q { s with reply := y } = readReg q s := by cases q <;> rfl

/-- No register shows the pending moves. -/
theorem readReg_inputs (q : Reg) (s : State) (x : List Input) :
    readReg q { s with inputs := x } = readReg q s := by cases q <;> rfl

/-- Settles O19: the write goes to the named register alone. -/
theorem operandWritesReadBack : Obligations.OperandWritesReadBack := by
  intro s r v rest hr hb hin
  obtain ⟨hself, hother, hmem, hengine, hinputs⟩ := writeIdle_operand v { s with inputs := rest } hr
  refine ⟨_, step_regWrite hin, ?_⟩
  rw [writeOffset_of_operand hr (show State.busy { s with inputs := rest } = false from hb)]
  refine ⟨(readReg_reply _ _ _).trans hself, fun q hq => ?_, hmem, hengine, hinputs⟩
  rw [readReg_reply, hother q hq, readReg_inputs]

/-! ### Reset (70_reset_and_hazards.md R200 to R202) -/

/-- Only a command that had entered WRITE leaves memory open, and only its extent (R202). -/
theorem abortCommand_mem (s : State) (hwf : Memory.wf s.mem = true) :
    ((∀ c, s.engine.mode ≠ .running c .write ∧ s.engine.mode ≠ .running c .commit) →
      (abortCommand s).mem = s.mem) ∧ SameOutside s.engine.extent s.mem (abortCommand s).mem := by
  have hlost : SameOutside s.engine.extent s.mem (s.loseExtent s.engine.extent).mem := fun a ha =>
    readByte_scribble_of_outside _ hwf _ a ha
  rcases hm : s.engine.mode with _ | ⟨c, ph⟩
  · simp only [abortCommand, hm]
    exact ⟨fun _ => trivial, fun _ _ => rfl⟩
  · cases ph
    case validate | read =>
      simp only [abortCommand, hm]
      exact ⟨fun _ => trivial, fun _ _ => rfl⟩
    case write => simpa only [abortCommand, hm] using ⟨fun h => absurd rfl (h c).1, hlost⟩
    case commit => simpa only [abortCommand, hm] using ⟨fun h => absurd rfl (h c).2, hlost⟩

/-- A power-on reset or a soft reset is the reset of the machine, but for the reply. -/
theorem step_reset {s : State} {v : Word} {rest : List Input}
    (h : s.inputs = .powerOn :: rest ∨
      (s.inputs = .regWrite (s.cfg.regBase + 0x10) 8 v :: rest ∧ v.getLsbD 1 = true)) :
    ∃ r, step s = .next { resetMachine { s with inputs := rest } with reply := r } := by
  obtain h | ⟨h, hbit⟩ := h
  · exact ⟨s.reply, step_of_input h⟩
  · exact ⟨.accepted, by rw [step_ctrlWrite h, writeCtrl, if_pos hbit]⟩

/-- Settles O20: what a reset keeps of memory, and the reset values of everything else. -/
theorem resetEffect : Obligations.ResetEffect := by
  intro s v rest hwf h
  obtain ⟨r, hstep⟩ := step_reset h
  obtain ⟨hkept, houtside⟩ := abortCommand_mem { s with inputs := rest } hwf
  exact ⟨_, _, r, hstep, hkept, houtside⟩

end Sys2Proof.Proofs
end

section
/-!
PROOF. The bytes that buffers cover, and the order of a command's VALIDATE checks (60_exceptions.md R182): each
check list, read once as the ordered conditions of its section.
-/

namespace Sys2Proof.Proofs

open Sys2Proof Sys2Proof.Machine Sys2Proof.Safety Sys2Proof.Laws

/-! ### Bytes of buffers -/

/-- The address is a byte of one of the buffers. -/
def Covers (bufs : List Buf) (a : Nat) : Prop := ∃ b ∈ bufs, hasByte b a = true

theorem hasByte_iff (b : Buf) (a : Nat) : hasByte b a = true ↔ b.addr ≤ a ∧ a < b.addr + b.len := by
  simp [hasByte]

@[simp] theorem covers_nil (a : Nat) : ¬Covers [] a := by simp [Covers]

@[simp] theorem covers_cons (b : Buf) (bufs : List Buf) (a : Nat) :
    Covers (b :: bufs) a ↔ (b.addr ≤ a ∧ a < b.addr + b.len) ∨ Covers bufs a := by
  simp [Covers, hasByte_iff]

theorem covers_of_mem {b : Buf} {bufs : List Buf} {a : Nat} (hb : b ∈ bufs)
    (ha : b.addr ≤ a ∧ a < b.addr + b.len) : Covers bufs a := ⟨b, hb, (hasByte_iff b a).mpr ha⟩

theorem not_covers_iff (bufs : List Buf) (a : Nat) :
    ¬Covers bufs a ↔ ∀ b ∈ bufs, hasByte b a = false := by
  simp [Covers]

theorem sameOutside_iff (bufs : List Buf) (m m' : Memory) :
    SameOutside bufs m m' ↔ ∀ a, ¬Covers bufs a → readByte m' a = readByte m a := by
  simp only [SameOutside, not_covers_iff]

theorem sameOutside_refl (bufs : List Buf) (m : Memory) : SameOutside bufs m m := fun _ _ => rfl

/-- What is the same outside some bytes is the same outside more bytes. -/
theorem sameOutside_mono {bufs bufs' : List Buf} {m m' : Memory} (h : SameOutside bufs m m')
    (hsub : ∀ a, Covers bufs a → Covers bufs' a) : SameOutside bufs' m m' := by
  rw [sameOutside_iff] at *
  exact fun a ha => h a (fun hc => ha (hsub a hc))

theorem sameOutside_writeBytes {m : Memory} (h : Memory.wf m = true) (a : Nat) (bs : List Byte) :
    SameOutside [⟨a, bs.length⟩] m (writeBytes m a bs) := by
  rw [sameOutside_iff]
  intro x hx
  rw [readByte_writeBytes h, if_neg (by simpa using hx)]

/-- Storing pieces changes no byte outside their extent. -/
theorem sameOutside_storePieces {m : Memory} (h : Memory.wf m = true) (ps : List Piece) :
    SameOutside (extentOf ps) m (storePieces m ps) := by
  rw [sameOutside_iff]
  refine fun a ha => readByte_storePieces_of_outside h ps a fun p hp hin => ha ?_
  exact covers_of_mem (List.mem_map_of_mem hp) hin

theorem sameOutside_trans {bufs : List Buf} {m m' m'' : Memory} (h : SameOutside bufs m m')
    (h' : SameOutside bufs m' m'') : SameOutside bufs m m'' := fun a ha => (h' a ha).trans (h a ha)

theorem sameOutside_loseExtent {s : State} (h : Memory.wf s.mem = true) (x : List Buf) :
    SameOutside x s.mem (s.loseExtent x).mem := fun a ha => readByte_scribble_of_outside _ h x a ha

/-! ### Tests of operands, as conditions -/

theorem badFieldWidth_iff (w : Width) (s : State) : badFieldWidth w s = true ↔ ¬WidthOk w s := by
  rw [← Bool.not_eq_false, badFieldWidth_eq_false_iff]

theorem badCount_iff (s : State) : badCount s = true ↔ ¬CountOk s := by
  rw [← Bool.not_eq_false, badCount_eq_false_iff]

theorem notMultiple_iff (w : Width) (r : Word) : notMultiple w r = true ↔ ¬Aligned w r := by
  rw [← Bool.not_eq_false, notMultiple_eq_false_iff]

theorem outOfSpace_iff (s : State) (b : Buf) : outOfSpace s b = true ↔ ¬InSpace s b := by
  rw [← Bool.not_eq_false, outOfSpace_eq_false_iff]

theorem badOffset_iff (s : State) (len : Word) :
    badOffset s len = true ↔ 8 * len.toNat < s.bitOffset.toNat + s.fieldWidth.toNat := by
  simp [badOffset]

theorem not_disjoint_iff (a b : Buf) : (!disjoint a b) = true ↔ ¬Apart a b := by
  rw [← disjoint_iff, Bool.not_eq_true', Bool.not_eq_true]

/-! ### The check lists, as ordered conditions -/

/-- R111. -/
theorem firstFailure_bsWrChecks (w : Width) (s : State) :
    firstFailure (bsWrChecks w s) =
      if ¬WidthOk w s then some .width
      else if ¬Aligned w s.dstAddr then some .misaligned
      else if ¬Aligned w s.dstCap then some .lenMultiple
      else if ¬InSpace s (dstBuf s) then some .range
      else if 8 * s.dstCap.toNat < s.bitOffset.toNat + s.fieldWidth.toNat then some .offset
      else none := by
  simp only [bsWrChecks, firstFailure, badFieldWidth_iff, notMultiple_iff, outOfSpace_iff, badOffset_iff]

/-- R112. -/
theorem firstFailure_bsRdChecks (w : Width) (s : State) :
    firstFailure (bsRdChecks w s) =
      if ¬WidthOk w s then some .width
      else if ¬Aligned w s.srcAddr then some .misaligned
      else if ¬Aligned w s.srcLen then some .lenMultiple
      else if ¬InSpace s (srcBuf s) then some .range
      else if 8 * s.srcLen.toNat < s.bitOffset.toNat + s.fieldWidth.toNat then some .offset
      else none := by
  simp only [bsRdChecks, firstFailure, badFieldWidth_iff, notMultiple_iff, outOfSpace_iff, badOffset_iff]

/-- R113. -/
theorem firstFailure_bsPackChecks (w : Width) (s : State) :
    firstFailure (bsPackChecks w s) =
      if ¬WidthOk w s then some .width
      else if ¬CountOk s then some .count
      else if ¬(Aligned w s.srcAddr ∧ Aligned w s.dstAddr) then some .misaligned
      else if ¬(InSpace s (srcArray w s) ∧ InSpace s (dstBuf s)) then some .range
      else if ¬Apart (srcArray w s) (dstBuf s) then some .overlap
      else if s.dstCap.toNat < packedSize w s.count.toNat s.fieldWidth.toNat then some .capacity
      else none := by
  simp only [bsPackChecks, firstFailure, badFieldWidth_iff,
    badCount_iff, notMultiple_iff, outOfSpace_iff, not_disjoint_iff, decide_eq_true_eq, not_and_or, ite_or]

/-- R114. -/
theorem firstFailure_bsUnpackChecks (w : Width) (s : State) :
    firstFailure (bsUnpackChecks w s) =
      if ¬WidthOk w s then some .width
      else if ¬CountOk s then some .count
      else if ¬(Aligned w s.srcAddr ∧ Aligned w s.dstAddr) then some .misaligned
      else if ¬(InSpace s (srcBuf s) ∧ InSpace s (dstBuf s)) then some .range
      else if ¬Apart (srcBuf s) (dstBuf s) then some .overlap
      else if s.srcLen.toNat ≠ packedSize w s.count.toNat s.fieldWidth.toNat then some .lenMismatch
      else if s.dstCap.toNat < s.count.toNat * wBytes w then some .capacity
      else none := by
  simp only [bsUnpackChecks, firstFailure, badFieldWidth_iff,
    badCount_iff, notMultiple_iff, outOfSpace_iff, not_disjoint_iff, decide_eq_true_eq, not_and_or, ite_or]

/-- R132. -/
theorem firstFailure_ddEncChecks (w : Width) (s : State) :
    firstFailure (ddEncChecks w s) =
      if ¬CountOk s then some .count
      else if ¬(Aligned w s.srcAddr ∧ Aligned w s.dstAddr) then some .misaligned
      else if ¬(InSpace s (srcArray w s) ∧ InSpace s (dstBuf s)) then some .range
      else if ¬Apart (srcArray w s) (dstBuf s) then some .overlap
      else none := by
  simp only [ddEncChecks, firstFailure, badCount_iff,
    notMultiple_iff, outOfSpace_iff, not_disjoint_iff, not_and_or, ite_or]

/-- R133. -/
theorem firstFailure_ddDecChecks (w : Width) (s : State) :
    firstFailure (ddDecChecks w s) =
      if s.bitWidth.toInt < 0 then some .negBitwidth
      else if (wBits w : Int) < s.bitWidth.toInt then some .bitwidthRange
      else if ¬CountOk s then some .hdrCount
      else if s.srcLen.toNat ≠ packedSize w s.count.toNat s.bitWidth.toInt.toNat then some .lenMismatch
      else if ¬(Aligned w s.srcAddr ∧ Aligned w s.dstAddr) then some .misaligned
      else if ¬(InSpace s (srcBuf s) ∧ InSpace s (dstBuf s)) then some .range
      else if ¬Apart (srcBuf s) (dstBuf s) then some .overlap
      else if s.dstCap.toNat < s.count.toNat * wBytes w then some .capacity
      else none := by
  simp only [ddDecChecks, firstFailure, badCount_iff, notMultiple_iff, outOfSpace_iff,
    not_disjoint_iff, decide_eq_true_eq, not_and_or, ite_or]
  rfl

/-- R146. -/
theorem firstFailure_fsSplitChecks (w : Width) (s : State) :
    firstFailure (fsSplitChecks w s) =
      if ¬CountOk s then some .count
      else if ¬FsSplitAligned w s then some .misaligned
      else if ¬FsSplitInSpace w s then some .range
      else if ¬FsSplitApart w s then some .overlap
      else none := by
  simp only [fsSplitChecks, firstFailure, badCount_iff,
    notMultiple_iff, outOfSpace_iff, not_disjoint_iff, not_and_or, ite_or]

/-- R147. -/
theorem firstFailure_fsRecombChecks (w : Width) (s : State) :
    firstFailure (fsRecombChecks w s) =
      if ¬CountOk s then some .hdrCount
      else if ¬FsRecombAligned w s then some .misaligned
      else if ¬FsRecombInSpace w s then some .range
      else if ¬FsRecombApart w s then some .overlap
      else if s.dstCap.toNat < s.count.toNat * wBytes w then some .capacity
      else none := by
  simp only [fsRecombChecks, firstFailure, badCount_iff,
    notMultiple_iff, outOfSpace_iff, not_disjoint_iff, decide_eq_true_eq, not_and_or, ite_or]

/-- R163. -/
theorem firstFailure_ccChecks_compress (s : State) :
    firstFailure (ccChecks .compress s) =
      if ¬(InSpace s (srcBuf s) ∧ InSpace s (dstBuf s)) then some .range
      else if ¬Apart (srcBuf s) (dstBuf s) then some .overlap
      else none := by
  simp only [ccChecks, firstFailure, outOfSpace_iff,
    not_disjoint_iff, not_and_or, ite_or]

/-- R164. -/
theorem firstFailure_ccChecks_decompress (s : State) :
    firstFailure (ccChecks .decompress s) =
      if s.cfg.nAlgo < s.algo.toNat then some .badTag
      else if ¬(InSpace s (srcBuf s) ∧ InSpace s (dstBuf s)) then some .range
      else if ¬Apart (srcBuf s) (dstBuf s) then some .overlap
      else if s.algo.toNat = 0 ∧ s.dstCap.toNat < s.srcLen.toNat then some .capacity
      else none := by
  simp only [ccChecks, firstFailure, Bool.and_eq_true,
    outOfSpace_iff, not_disjoint_iff, decide_eq_true_eq, not_and_or, ite_or]

/-! ### A failed check ends the command -/

/-- A command that is a rule ends with the first check that fails, and changes nothing else. -/
theorem runRule_eq_failedWith {r : Rule} {s : State} {e : Cause}
    (h : firstFailure (r.checks s) = some e) (ha : e.address = none) :
    runRule r s = failedWith e.kind.code e.sub s := by
  rw [runRule_of_check h, fail_eq_failedWith, ha]
  rfl

theorem exec_bsWr_of_check {w : Width} {s : State} {e : Cause} (ha : e.address = none)
    (h : firstFailure (bsWrChecks w s) = some e) :
    exec (.bsWr w) s = .next (failedWith e.kind.code e.sub s) := by
  rw [exec_bsWr, runRule_eq_failedWith h ha]

theorem exec_bsRd_of_check {w : Width} {s : State} {e : Cause} (ha : e.address = none)
    (h : firstFailure (bsRdChecks w s) = some e) :
    exec (.bsRd w) s = .next (failedWith e.kind.code e.sub s) := by
  rw [exec_bsRd, runRule_eq_failedWith h ha]

theorem exec_bsPack_of_check {w : Width} {s : State} {e : Cause} (ha : e.address = none)
    (h : firstFailure (bsPackChecks w s) = some e) :
    exec (.bsPack w) s = .next (failedWith e.kind.code e.sub s) := by
  rw [exec_bsPack, runRule_eq_failedWith h ha]

theorem exec_bsUnpack_of_check {w : Width} {s : State} {e : Cause} (ha : e.address = none)
    (h : firstFailure (bsUnpackChecks w s) = some e) :
    exec (.bsUnpack w) s = .next (failedWith e.kind.code e.sub s) := by
  rw [exec_bsUnpack, runRule_eq_failedWith h ha]

theorem exec_ddEnc_of_check {w : Width} {s : State} {e : Cause} (ha : e.address = none)
    (h : firstFailure (ddEncChecks w s) = some e) :
    exec (.ddEnc w) s = .next (failedWith e.kind.code e.sub s) := by
  rw [exec_ddEnc, runRule_eq_failedWith h ha]

theorem exec_ddDec_of_check {w : Width} {s : State} {e : Cause} (ha : e.address = none)
    (h : firstFailure (ddDecChecks w s) = some e) :
    exec (.ddDec w) s = .next (failedWith e.kind.code e.sub s) := by
  rw [exec_ddDec, runRule_eq_failedWith h ha]

theorem exec_fsSplit_of_check {w : Width} {s : State} {e : Cause} (ha : e.address = none)
    (h : firstFailure (fsSplitChecks w s) = some e) :
    exec (.fsSplit w) s = .next (failedWith e.kind.code e.sub s) := by
  rw [exec_fsSplit, runRule_eq_failedWith h ha]

theorem exec_fsRecomb_of_check {w : Width} {s : State} {e : Cause} (ha : e.address = none)
    (h : firstFailure (fsRecombChecks w s) = some e) :
    exec (.fsRecomb w) s = .next (failedWith e.kind.code e.sub s) := by
  rw [exec_fsRecomb, runRule_eq_failedWith h ha]

/-! ### The statements -/

/-- Settles O32: R111 and R112, clause by clause. -/
theorem fieldAccessErrorOrder : Obligations.FieldAccessErrorOrder := by
  intro w s
  refine ⟨⟨fun h => exec_bsWr_of_check (e := .width) rfl ?_,
      fun hw h => exec_bsWr_of_check (e := .misaligned) rfl ?_,
      fun hw ha h => exec_bsWr_of_check (e := .lenMultiple) rfl ?_,
      fun hw ha hl h => exec_bsWr_of_check (e := .range) rfl ?_,
      fun hw ha hl hs h => exec_bsWr_of_check (e := .offset) rfl ?_⟩,
    ⟨fun h => exec_bsRd_of_check (e := .width) rfl ?_,
      fun hw h => exec_bsRd_of_check (e := .misaligned) rfl ?_,
      fun hw ha h => exec_bsRd_of_check (e := .lenMultiple) rfl ?_,
      fun hw ha hl h => exec_bsRd_of_check (e := .range) rfl ?_,
      fun hw ha hl hs h => exec_bsRd_of_check (e := .offset) rfl ?_⟩⟩
  · rw [firstFailure_bsWrChecks, if_pos h]
  · rw [firstFailure_bsWrChecks, if_neg (not_not_intro hw), if_pos h]
  · rw [firstFailure_bsWrChecks, if_neg (not_not_intro hw), if_neg (not_not_intro ha), if_pos h]
  · rw [firstFailure_bsWrChecks, if_neg (not_not_intro hw), if_neg (not_not_intro ha),
      if_neg (not_not_intro hl), if_pos h]
  · rw [firstFailure_bsWrChecks, if_neg (not_not_intro hw), if_neg (not_not_intro ha),
      if_neg (not_not_intro hl), if_neg (not_not_intro hs), if_pos h]
  · rw [firstFailure_bsRdChecks, if_pos h]
  · rw [firstFailure_bsRdChecks, if_neg (not_not_intro hw), if_pos h]
  · rw [firstFailure_bsRdChecks, if_neg (not_not_intro hw), if_neg (not_not_intro ha), if_pos h]
  · rw [firstFailure_bsRdChecks, if_neg (not_not_intro hw), if_neg (not_not_intro ha),
      if_neg (not_not_intro hl), if_pos h]
  · rw [firstFailure_bsRdChecks, if_neg (not_not_intro hw), if_neg (not_not_intro ha),
      if_neg (not_not_intro hl), if_neg (not_not_intro hs), if_pos h]

/-- Settles O33: R113 and R114, clause by clause. -/
theorem arrayPackErrorOrder : Obligations.ArrayPackErrorOrder := by
  intro w s
  refine ⟨fun h => ⟨exec_bsPack_of_check (e := .width) rfl ?_,
      exec_bsUnpack_of_check (e := .width) rfl ?_⟩,
    fun hw h => ⟨exec_bsPack_of_check (e := .count) rfl ?_,
      exec_bsUnpack_of_check (e := .count) rfl ?_⟩,
    fun hw hc h => ⟨exec_bsPack_of_check (e := .misaligned) rfl ?_,
      exec_bsUnpack_of_check (e := .misaligned) rfl ?_⟩,
    fun hw hc ha ha' => ⟨fun h => exec_bsPack_of_check (e := .range) rfl ?_,
      fun hs hs' => ⟨fun h => exec_bsPack_of_check (e := .overlap) rfl ?_,
        fun hd h => exec_bsPack_of_check (e := .capacity) rfl ?_⟩,
      fun h => exec_bsUnpack_of_check (e := .range) rfl ?_,
      fun hs hs' => ⟨fun h => exec_bsUnpack_of_check (e := .overlap) rfl ?_,
        fun hd h => exec_bsUnpack_of_check (e := .lenMismatch) rfl ?_,
        fun hd hl h => exec_bsUnpack_of_check (e := .capacity) rfl ?_⟩⟩⟩
  · rw [firstFailure_bsPackChecks, if_pos h]
  · rw [firstFailure_bsUnpackChecks, if_pos h]
  · rw [firstFailure_bsPackChecks, if_neg (not_not_intro hw), if_pos h]
  · rw [firstFailure_bsUnpackChecks, if_neg (not_not_intro hw), if_pos h]
  · rw [firstFailure_bsPackChecks, if_neg (not_not_intro hw), if_neg (not_not_intro hc), if_pos h]
  · rw [firstFailure_bsUnpackChecks, if_neg (not_not_intro hw), if_neg (not_not_intro hc), if_pos h]
  · rw [firstFailure_bsPackChecks, if_neg (not_not_intro hw), if_neg (not_not_intro hc),
      if_neg (not_not_intro ⟨ha, ha'⟩), if_pos h]
  · rw [firstFailure_bsPackChecks, if_neg (not_not_intro hw), if_neg (not_not_intro hc),
      if_neg (not_not_intro ⟨ha, ha'⟩), if_neg (not_not_intro ⟨hs, hs'⟩), if_pos h]
  · rw [firstFailure_bsPackChecks, if_neg (not_not_intro hw), if_neg (not_not_intro hc),
      if_neg (not_not_intro ⟨ha, ha'⟩), if_neg (not_not_intro ⟨hs, hs'⟩), if_neg (not_not_intro hd),
      if_pos h]
  · rw [firstFailure_bsUnpackChecks, if_neg (not_not_intro hw), if_neg (not_not_intro hc),
      if_neg (not_not_intro ⟨ha, ha'⟩), if_pos h]
  · rw [firstFailure_bsUnpackChecks, if_neg (not_not_intro hw), if_neg (not_not_intro hc),
      if_neg (not_not_intro ⟨ha, ha'⟩), if_neg (not_not_intro ⟨hs, hs'⟩), if_pos h]
  · rw [firstFailure_bsUnpackChecks, if_neg (not_not_intro hw), if_neg (not_not_intro hc),
      if_neg (not_not_intro ⟨ha, ha'⟩), if_neg (not_not_intro ⟨hs, hs'⟩), if_neg (not_not_intro hd),
      if_pos h]
  · rw [firstFailure_bsUnpackChecks, if_neg (not_not_intro hw), if_neg (not_not_intro hc),
      if_neg (not_not_intro ⟨ha, ha'⟩), if_neg (not_not_intro ⟨hs, hs'⟩), if_neg (not_not_intro hd),
      if_neg (not_not_intro hl), if_pos h]

/-- Settles O41: R132, clause by clause. -/
theorem ddEncErrorOrder : Obligations.DdEncErrorOrder := by
  intro w s
  refine ⟨fun h => exec_ddEnc_of_check (e := .count) rfl ?_,
    fun hc h => exec_ddEnc_of_check (e := .misaligned) rfl ?_,
    fun hc ha ha' => ⟨fun h => exec_ddEnc_of_check (e := .range) rfl ?_,
      fun hs hs' h => exec_ddEnc_of_check (e := .overlap) rfl ?_⟩⟩
  · rw [firstFailure_ddEncChecks, if_pos h]
  · rw [firstFailure_ddEncChecks, if_neg (not_not_intro hc), if_pos h]
  · rw [firstFailure_ddEncChecks, if_neg (not_not_intro hc), if_neg (not_not_intro ⟨ha, ha'⟩), if_pos h]
  · rw [firstFailure_ddEncChecks, if_neg (not_not_intro hc), if_neg (not_not_intro ⟨ha, ha'⟩),
      if_neg (not_not_intro ⟨hs, hs'⟩), if_pos h]

/-- Settles O40: R133, clause by clause; a width above W is not negative. -/
theorem ddDecHeaderErrorOrder : Obligations.DdDecHeaderErrorOrder := by
  intro w s
  refine ⟨fun h => exec_ddDec_of_check (e := .negBitwidth) rfl ?_,
    fun h => exec_ddDec_of_check (e := .bitwidthRange) rfl ?_,
    fun h0 hW => ⟨fun h => exec_ddDec_of_check (e := .hdrCount) rfl ?_,
      fun hc h => exec_ddDec_of_check (e := .lenMismatch) rfl ?_,
      fun hc hl => ⟨fun h => exec_ddDec_of_check (e := .misaligned) rfl ?_,
        fun ha ha' => ⟨fun h => exec_ddDec_of_check (e := .range) rfl ?_,
          fun hs hs' => ⟨fun h => exec_ddDec_of_check (e := .overlap) rfl ?_,
            fun hd h => exec_ddDec_of_check (e := .capacity) rfl ?_⟩⟩⟩⟩⟩
  · rw [firstFailure_ddDecChecks, if_pos h]
  · rw [firstFailure_ddDecChecks, if_neg (by omega), if_pos h]
  · rw [firstFailure_ddDecChecks, if_neg h0.not_gt, if_neg hW.not_gt, if_pos h]
  · rw [firstFailure_ddDecChecks, if_neg h0.not_gt, if_neg hW.not_gt, if_neg (not_not_intro hc), if_pos h]
  · rw [firstFailure_ddDecChecks, if_neg h0.not_gt, if_neg hW.not_gt, if_neg (not_not_intro hc),
      if_neg (not_not_intro hl), if_pos h]
  · rw [firstFailure_ddDecChecks, if_neg h0.not_gt, if_neg hW.not_gt, if_neg (not_not_intro hc),
      if_neg (not_not_intro hl), if_neg (not_not_intro ⟨ha, ha'⟩), if_pos h]
  · rw [firstFailure_ddDecChecks, if_neg h0.not_gt, if_neg hW.not_gt, if_neg (not_not_intro hc),
      if_neg (not_not_intro hl), if_neg (not_not_intro ⟨ha, ha'⟩), if_neg (not_not_intro ⟨hs, hs'⟩),
      if_pos h]
  · rw [firstFailure_ddDecChecks, if_neg h0.not_gt, if_neg hW.not_gt, if_neg (not_not_intro hc),
      if_neg (not_not_intro hl), if_neg (not_not_intro ⟨ha, ha'⟩), if_neg (not_not_intro ⟨hs, hs'⟩),
      if_neg (not_not_intro hd), if_pos h]

/-- Settles O46: R146 and R147, clause by clause. -/
theorem splitterErrorOrder : Obligations.SplitterErrorOrder := by
  intro w s
  refine ⟨fun h => ⟨exec_fsSplit_of_check (e := .count) rfl ?_,
      exec_fsRecomb_of_check (e := .hdrCount) rfl ?_⟩,
    fun hc => ⟨fun h => exec_fsSplit_of_check (e := .misaligned) rfl ?_,
      fun ha h => exec_fsSplit_of_check (e := .range) rfl ?_,
      fun ha hs h => exec_fsSplit_of_check (e := .overlap) rfl ?_,
      fun h => exec_fsRecomb_of_check (e := .misaligned) rfl ?_,
      fun ha h => exec_fsRecomb_of_check (e := .range) rfl ?_,
      fun ha hs => ⟨fun h => exec_fsRecomb_of_check (e := .overlap) rfl ?_,
        fun hd h => exec_fsRecomb_of_check (e := .capacity) rfl ?_⟩⟩⟩
  · rw [firstFailure_fsSplitChecks, if_pos h]
  · rw [firstFailure_fsRecombChecks, if_pos h]
  · rw [firstFailure_fsSplitChecks, if_neg (not_not_intro hc), if_pos h]
  · rw [firstFailure_fsSplitChecks, if_neg (not_not_intro hc), if_neg (not_not_intro ha), if_pos h]
  · rw [firstFailure_fsSplitChecks, if_neg (not_not_intro hc), if_neg (not_not_intro ha),
      if_neg (not_not_intro hs), if_pos h]
  · rw [firstFailure_fsRecombChecks, if_neg (not_not_intro hc), if_pos h]
  · rw [firstFailure_fsRecombChecks, if_neg (not_not_intro hc), if_neg (not_not_intro ha), if_pos h]
  · rw [firstFailure_fsRecombChecks, if_neg (not_not_intro hc), if_neg (not_not_intro ha),
      if_neg (not_not_intro hs), if_pos h]
  · rw [firstFailure_fsRecombChecks, if_neg (not_not_intro hc), if_neg (not_not_intro ha),
      if_neg (not_not_intro hs), if_neg (not_not_intro hd), if_pos h]

end Sys2Proof.Proofs
end

section
/-!
PROOF. What BS.WR, BS.RD, BS.PACK and BS.UNPACK leave when they succeed (40_bitstream.md R111 to R114): every
bit they define, and the frame.
-/

namespace Sys2Proof.Proofs

open Sys2Proof Sys2Proof.Machine Sys2Proof.Safety Sys2Proof.Laws

/-! ### The words of a field (R110) -/

theorem fieldWords_eq (w : Width) (base o fw : Nat) :
    fieldWords w base o fw =
      if spans w o fw then
        [⟨base + wordIndex w o * wBytes w, wBytes w⟩, ⟨base + wordIndex w o * wBytes w + wBytes w, wBytes w⟩]
      else [⟨base + wordIndex w o * wBytes w, wBytes w⟩] := rfl

/-- The bytes of the one or two words that a field touches. -/
theorem covers_fieldWords_iff (w : Width) (base o fw a : Nat) :
    Covers (fieldWords w base o fw) a ↔
      base + wordIndex w o * wBytes w ≤ a ∧
        a < base + wordIndex w o * wBytes w + fieldWordCount w o fw * wBytes w := by
  rw [fieldWords_eq, fieldWordCount]
  split <;> simp only [covers_cons, covers_nil, or_false] <;> omega

/-- A bit outside a field's words is kept by what changes those words alone. -/
theorem bufferBit_of_sameOutside {w : Width} {base o fw p : Nat} {m m' : Memory}
    (h : SameOutside (fieldWords w base o fw) m m')
    (hp : p < wordIndex w o * wBits w ∨ wordIndex w o * wBits w + fieldWordCount w o fw * wBits w ≤ p) :
    bufferBit m' base p = bufferBit m base p := by
  have hW := wBits_eq w
  have hstart : wordIndex w o * wBits w = 8 * (wordIndex w o * wBytes w) := by rw [hW]; ring
  have hlen : fieldWordCount w o fw * wBits w = 8 * (fieldWordCount w o fw * wBytes w) := by rw [hW]; ring
  rw [bufferBit, bufferBit, (sameOutside_iff _ _ _).mp h]
  rw [covers_fieldWords_iff]
  omega

/-! ### BS.WR (R111) -/

theorem sameOutside_bsWrMem {w : Width} {s : State} (hwf : Memory.wf s.mem = true) :
    SameOutside (bsWrWords w s) s.mem (bsWrMem w s) := by
  obtain ⟨job, -, hextent, -, hmem⟩ := bsWrPlan_eq w s
  rw [← hextent, ← hmem]
  exact sameOutside_storePieces hwf job.out

theorem testBit_bsWrField_eq {w : Width} {s : State} (hfw : s.fieldWidth.toNat ≤ wBits w) (t : Nat) :
    (bsWrField w s).testBit t = (decide (t < s.fieldWidth.toNat) && s.value.getLsbD t) := by
  by_cases ht : t < s.fieldWidth.toNat
  · simp [testBit_bsWrField hfw ht, ht]
  · simp [bsWrField, testBit_maskTo, ht]

/-- A bit of the touched words: the value's bit is ORed in where the field is. -/
theorem bufferBit_bsWrMem_of_touched {w : Width} {s : State} (hwf : Memory.wf s.mem = true)
    (hfw : s.fieldWidth.toNat ≤ wBits w) {q : Nat}
    (hq : q < fieldWordCount w s.bitOffset.toNat s.fieldWidth.toNat * wBits w) :
    bufferBit (bsWrMem w s) s.dstAddr.toNat (wordIndex w s.bitOffset.toNat * wBits w + q) =
      (bufferBit s.mem s.dstAddr.toNat (wordIndex w s.bitOffset.toNat * wBits w + q) ||
        (decide (bitIndex w s.bitOffset.toNat ≤ q) &&
          (bsWrField w s).testBit (q - bitIndex w s.bitOffset.toNat))) := by
  rw [← bufferBit_add_words, ← bufferBit_add_words, bsWrMem,
    bufferBit_writeWords hwf _ _ _ (by rwa [length_orField, length_readWords]),
    wordBit_orField w _ _ _ _ _ hfw (bsWrField_lt w s)
      (by rwa [length_readWords, Nat.div_lt_iff_lt_mul (wBits_pos w)]),
    wordBit_readWords w _ _ hq]

/-- R111, for every bit of the buffer. -/
theorem bufferBit_bsWrMem_eq {w : Width} {s : State} (hwf : Memory.wf s.mem = true)
    (hfw : s.fieldWidth.toNat ≤ wBits w) (p : Nat) :
    bufferBit (bsWrMem w s) s.dstAddr.toNat p =
      (bufferBit s.mem s.dstAddr.toNat p ||
        (decide (s.bitOffset.toNat ≤ p) && decide (p < s.bitOffset.toNat + s.fieldWidth.toNat) &&
          s.value.getLsbD (p - s.bitOffset.toNat))) := by
  have ho := offset_eq w s.bitOffset.toNat
  have hb := bitIndex_lt w s.bitOffset.toNat
  by_cases hin : wordIndex w s.bitOffset.toNat * wBits w ≤ p ∧
      p < wordIndex w s.bitOffset.toNat * wBits w +
        fieldWordCount w s.bitOffset.toNat s.fieldWidth.toNat * wBits w
  · obtain ⟨q, rfl⟩ := Nat.exists_eq_add_of_le hin.1
    rw [bufferBit_bsWrMem_of_touched hwf hfw (by omega), testBit_bsWrField_eq hfw]
    congr 1
    by_cases hq : bitIndex w s.bitOffset.toNat ≤ q
    · have hsub : wordIndex w s.bitOffset.toNat * wBits w + q - s.bitOffset.toNat =
          q - bitIndex w s.bitOffset.toNat := by omega
      have hle : s.bitOffset.toNat ≤ wordIndex w s.bitOffset.toNat * wBits w + q := by omega
      have hlt : wordIndex w s.bitOffset.toNat * wBits w + q < s.bitOffset.toNat + s.fieldWidth.toNat ↔
          q - bitIndex w s.bitOffset.toNat < s.fieldWidth.toNat := by omega
      simp [hq, hsub, hle, hlt]
    · have hnle : ¬s.bitOffset.toNat ≤ wordIndex w s.bitOffset.toNat * wBits w + q := by omega
      simp [hq, hnle]
  · rw [bufferBit_of_sameOutside (sameOutside_bsWrMem hwf) (by omega)]
    by_cases hfield : s.bitOffset.toNat ≤ p ∧ p < s.bitOffset.toNat + s.fieldWidth.toNat
    · have htouched := field_lt_touchedWords (w := w) (o := s.bitOffset.toNat)
        (t := p - s.bitOffset.toNat) hfw (by omega)
      omega
    · rw [← Bool.decide_and, decide_eq_false hfield]
      simp

/-- Settles O28: the field's bits ORed in, all others kept. -/
theorem bsWrOrsTheField : Obligations.BsWrOrsTheField := by
  intro w s hwf hready
  have ⟨⟨⟨_, hfw⟩, _⟩, _⟩ := hready
  exact ⟨bsWrMem w s, exec_bsWr_of_ready hready, fun p _ => bufferBit_bsWrMem_eq hwf hfw p,
    sameOutside_bsWrMem hwf⟩

/-! ### BS.RD (R112) -/

/-- Settles O29: the bits of the field, which 64 bits hold. -/
theorem bsRdReadsTheField : Obligations.BsRdReadsTheField := by
  intro w s hready
  have ⟨⟨⟨_, hfw⟩, _⟩, _⟩ := hready
  refine ⟨BitVec.ofNat 64 (bsRdField w s), exec_bsRd_of_ready hready, fun k hk => ?_⟩
  rw [BitVec.getLsbD_ofNat, testBit_bsRdField hfw]
  simp [hk]

/-! ### BS.PACK (R113) -/

/-- A bit past the last field of a packed word image is 0. -/
theorem wordBit_packWords_padding {w : Width} {fw : Nat} (hfw : fw ≤ wBits w) {vs : List Nat}
    (hvs : ∀ v ∈ vs, v < 2 ^ fw) {p : Nat} (hp : vs.length * fw ≤ p)
    (hend : p < (packWords w fw vs).length * wBits w) : wordBit w (packWords w fw vs) p = false := by
  obtain rfl | hpos := Nat.eq_zero_or_pos fw
  · have hempty : packedSize w vs.length 0 / wBytes w = 0 := by
      have hlt : wBits w - 1 < wBits w := Nat.sub_lt (wBits_pos w) Nat.one_pos
      simp [packedSize, ceilDiv, Nat.div_eq_of_lt hlt]
    rw [length_packWords, hempty] at hend
    omega
  · have hp' : p / fw * fw + p % fw = p := Nat.div_add_mod' p fw
    have hj : vs.length ≤ p / fw := (Nat.le_div_iff_mul_le hpos).mpr hp
    rw [length_packWords] at hend
    rw [← hp', packWords, wordBit_orFields hfw hvs _ _ (Nat.mod_lt p hpos)
      (by rwa [List.length_replicate, hp']), wordBit_replicate_zero, Nat.sub_zero,
      List.getD_eq_default _ _ hj]
    simp

theorem packWords_bits (w : Width) (fw : Nat) (vs : List Nat) :
    (packWords w fw vs).length * wBits w = 8 * packedSize w vs.length fw := by
  rw [length_packWords, wBits_eq, ← packedSize_div w vs.length fw,
    Nat.mul_div_cancel _ (wBytes_pos w)]
  ring

/-- The padding of stored packed words. -/
theorem bufferBit_packWords_padding {m : Memory} (hwf : Memory.wf m = true) {w : Width} (a : Nat)
    {fw : Nat} (hfw : fw ≤ wBits w) {vs : List Nat} (hvs : ∀ v ∈ vs, v < 2 ^ fw) {p : Nat}
    (hp : vs.length * fw ≤ p) (hend : p < 8 * packedSize w vs.length fw) :
    bufferBit (writeBytes m a (wordsBytes (wBytes w) (packWords w fw vs))) a p = false := by
  rw [← packWords_bits] at hend
  rw [bufferBit_writeWords hwf _ _ _ hend, wordBit_packWords_padding hfw hvs hp hend]

theorem sameOutside_bsPackMem {w : Width} {s : State} (hwf : Memory.wf s.mem = true) :
    SameOutside [packedPart w s] s.mem (bsPackMem w s) := by
  obtain ⟨job, -, hextent, -, hmem⟩ := bsPackPlan_eq w s
  rw [← hextent, ← hmem]
  exact sameOutside_storePieces hwf job.out

/-- Settles O30: the fields' bits, the padding and the frame of the packed words. -/
theorem bsPackPacksTheFields : Obligations.BsPackPacksTheFields := by
  intro w s hwf hready
  have ⟨⟨⟨_, hfw⟩, _⟩, _⟩ := hready
  refine ⟨bsPackMem w s, exec_bsPack_of_ready hready,
    fun i k hi hk => bufferBit_bsPackMem hwf hfw hi hk, fun p hp hend => ?_, sameOutside_bsPackMem hwf⟩
  rw [← length_maskedElements w s] at hp hend
  exact bufferBit_packWords_padding hwf _ hfw (maskedElements_lt w s) hp hend

/-! ### BS.UNPACK (R114) -/

theorem testBit_toNat_add_two_mul (b : Bool) (n k : Nat) :
    (b.toNat + 2 * n).testBit k = if k = 0 then b else n.testBit (k - 1) := by
  cases k with
  | zero => cases b <;> simp
  | succ k =>
    have hdiv : (b.toNat + 2 * n) / 2 = n := by have := b.toNat_lt; omega
    rw [Nat.testBit_succ, hdiv]
    simp

/-- A field's value has the field's bits. -/
theorem testBit_fieldValue (m : Memory) (a o n k : Nat) :
    (fieldValue m a o n).testBit k = (decide (k < n) && bufferBit m a (o + k)) := by
  induction n generalizing o k with
  | zero => simp [fieldValue]
  | succ n ih =>
    rw [fieldValue, testBit_toNat_add_two_mul]
    cases k with
    | zero => simp
    | succ k => simp [ih, show o + 1 + k = o + (k + 1) by omega]

theorem sameOutside_bsUnpackMem {w : Width} {s : State} (hwf : Memory.wf s.mem = true) :
    SameOutside [elementsPart w s] s.mem (bsUnpackMem w s) := by
  obtain ⟨job, -, hextent, -, hmem⟩ := bsUnpackPlan_eq w s
  rw [← hextent, ← hmem]
  exact sameOutside_storePieces hwf job.out

/-- Settles O31: an element and the field's value have the same bits. -/
theorem bsUnpackUnpacksTheFields : Obligations.BsUnpackUnpacksTheFields := by
  intro w s hwf hready
  refine ⟨bsUnpackMem w s, exec_bsUnpack_of_ready hready, fun i hi => ?_, sameOutside_bsUnpackMem hwf⟩
  refine Nat.eq_of_testBit_eq fun t => ?_
  rw [testBit_element_bsUnpackMem hwf hready.1 hi, testBit_fieldValue]

end Sys2Proof.Proofs
end

section
/-!
PROOF. What DD.ENC and DD.DEC leave when they succeed (41_delta_codec.md R130 to R133). The range that a
statement names is the range DD.ENC computes, since a least element and a least width are unique.
-/

namespace Sys2Proof.Proofs

open Sys2Proof Sys2Proof.Machine Sys2Proof.Safety Sys2Proof.Laws

/-! ### The range of the elements (R130) -/

theorem leastOf_signedElements {w : Width} {s : State} {mn : Int}
    (h : LeastOf (fun i => signedOf (wBits w) (element w s.mem s.srcAddr.toNat i)) s.count.toNat mn) :
    leastOf (signedElements w s) = mn := by
  obtain ⟨⟨i, hi, rfl⟩, hle⟩ := h
  have hmem := signedOf_element_mem w s hi
  refine (isLeast_leastOf hmem).unique ⟨hmem, fun y hy => ?_⟩
  rw [Set.mem_ofPred_eq, signedElements_eq_map] at hy
  obtain ⟨j, hj, rfl⟩ := List.mem_map.mp hy
  exact hle j (List.mem_range.mp hj)

theorem greatestOf_signedElements {w : Width} {s : State} {mx : Int}
    (h : GreatestOf (fun i => signedOf (wBits w) (element w s.mem s.srcAddr.toNat i)) s.count.toNat mx) :
    greatestOf (signedElements w s) = mx := by
  obtain ⟨⟨i, hi, rfl⟩, hle⟩ := h
  have hmem := signedOf_element_mem w s hi
  refine (isGreatest_greatestOf hmem).unique ⟨hmem, fun y hy => ?_⟩
  rw [Set.mem_ofPred_eq, signedElements_eq_map] at hy
  obtain ⟨j, hj, rfl⟩ := List.mem_map.mp hy
  exact hle j (List.mem_range.mp hj)

/-- The least width that holds a number is `bitsNeeded` of it. -/
theorem bitsNeeded_of_least {d : Int} {bw : Nat} (hd : 0 ≤ d) (hlt : d < 2 ^ bw)
    (hmin : ∀ k : Nat, d < 2 ^ k → bw ≤ k) : bitsNeeded d.toNat = bw := by
  have hcast : ∀ k : Nat, d.toNat < 2 ^ k ↔ d < 2 ^ k := fun k => by
    rw [Int.toNat_lt hd]
    push_cast
    rfl
  refine Nat.le_antisymm ((bitsNeeded_le_iff _ _).mpr ((hcast _).mpr hlt)) (hmin _ ?_)
  exact (hcast _).mp (lt_two_pow_bitsNeeded _)

/-- The range a statement names is the one DD.ENC computes. -/
theorem of_deltaRange {w : Width} {s : State} {mn mx : Int} {bw : Nat} (h : DeltaRange w s mn mx bw) :
    leastOf (signedElements w s) = mn ∧ ddEncWidth w s = bw := by
  obtain ⟨hmn, hmx, hlt, hmin⟩ := h
  have hle : mn ≤ mx := by
    obtain ⟨⟨i, hi, rfl⟩, -⟩ := hmn
    exact hmx.2 i hi
  refine ⟨leastOf_signedElements hmn, ?_⟩
  rw [ddEncWidth, deltaWidth, leastOf_signedElements hmn, greatestOf_signedElements hmx]
  exact bitsNeeded_of_least (Int.sub_nonneg_of_le hle) hlt hmin

/-! ### DD.ENC (R132) -/

/-- A field of stored packed words, as a number. -/
theorem fieldValue_packWords {m : Memory} (hwf : Memory.wf m = true) {w : Width} (a : Nat) {fw : Nat}
    (hfw : fw ≤ wBits w) {vs : List Nat} (hvs : ∀ v ∈ vs, v < 2 ^ fw) {i : Nat} (hi : i < vs.length) :
    fieldValue (writeBytes m a (wordsBytes (wBytes w) (packWords w fw vs))) a (i * fw) fw =
      vs.getD i 0 := by
  have hv : vs.getD i 0 < 2 ^ fw := by
    rw [List.getD_eq_getElem _ _ hi]
    exact hvs _ (List.getElem_mem hi)
  refine Nat.eq_of_testBit_eq fun t => ?_
  rw [testBit_fieldValue]
  by_cases ht : t < fw
  · rw [bufferBit_writeWords hwf _ _ _ (by rw [length_packWords]; exact field_lt_packedWords w hi ht),
      wordBit_packWords hfw hvs ht hi]
    simp [ht]
  · rw [Nat.testBit_lt_two_pow (hv.trans_le (Nat.pow_le_pow_right (by decide) (by omega)))]
    simp [ht]

theorem sameOutside_ddEncMem {w : Width} {s : State} (hwf : Memory.wf s.mem = true)
    (hfits : payloadSize w s ≤ s.dstCap.toNat) :
    SameOutside [payloadPart w s] s.mem (ddEncMem w s) := by
  obtain ⟨job, -, hextent, -, hmem⟩ := ddEncPlan_of_fits hfits
  rw [← hextent, ← hmem]
  exact sameOutside_storePieces hwf job.out

/-- R132: field i is the distance of element i to the least element. -/
theorem fieldValue_ddEncMem {w : Width} {s : State} (hwf : Memory.wf s.mem = true) (hn : CountOk s)
    {i : Nat} (hi : i < s.count.toNat) :
    (fieldValue (ddEncMem w s) s.dstAddr.toNat (i * ddEncWidth w s) (ddEncWidth w s) : Int) =
      signedOf (wBits w) (element w s.mem s.srcAddr.toNat i) - leastOf (signedElements w s) := by
  have hmem := signedOf_element_mem w s hi
  rw [ddEncMem, fieldValue_packWords hwf _ (ddEncWidth_le hn) (deltaFields_lt (signedElements w s))
    ((length_deltaFields w s).symm ▸ hi), getD_deltaFields w s hi, Int.toNat_of_nonneg]
  exact Int.sub_nonneg_of_le ((isLeast_leastOf hmem).2 hmem)

/-- Settles O37: with the range DD.ENC computes, its payload's fields, padding and frame. -/
theorem ddEncEncodes : Obligations.DdEncEncodes := by
  intro w s mn mx bw hwf hready hrange hfits hwrites
  obtain ⟨rfl, rfl⟩ := of_deltaRange hrange
  have hn : CountOk s := hready.1.1
  refine ⟨ddEncMem w s, exec_ddEnc_of_succeeds ⟨hready, hfits, hwrites⟩,
    fun i hi => fieldValue_ddEncMem hwf hn hi, fun p hp hend => ?_, sameOutside_ddEncMem hwf hfits⟩
  rw [← length_deltaFields w s] at hp hend
  exact bufferBit_packWords_padding hwf _ (ddEncWidth_le hn) (deltaFields_lt _) hp hend

/-- Settles O38: READ's own check fails, before anything is written. -/
theorem ddEncCapacity : Obligations.DdEncCapacity := by
  rintro w s mn mx bw ⟨hlegal, hsrc, -⟩ hrange hshort
  obtain ⟨rfl, rfl⟩ := of_deltaRange hrange
  have hreads : refusedIn s.cfg ((ddEncRule w).reads s) = [] :=
    (refusedIn_eq_nil_iff_allAdmitted _ _).mpr (List.forall_mem_singleton.mpr hsrc)
  rw [exec_ddEnc, runRule_of_readError ((ddEncChecks_pass_iff w s).mpr hlegal)
    ((readPhase_of_admitted hreads).trans (ddEncPlan_of_short hshort))]
  rfl

/-! ### DD.DEC (R133) -/

/-- A field of the packed source is the value of its bits, a field of width 0 included. -/
theorem fieldAt_packedWords {w : Width} {bw : Nat} {s : State} (hlegal : DdDecLegal w bw s) {i : Nat}
    (hi : i < s.count.toNat) :
    fieldAt w bw (packedWords w s) i = fieldValue s.mem s.srcAddr.toNat (i * bw) bw := by
  obtain ⟨-, hbw, -, hlen, -⟩ := hlegal
  obtain rfl | hpos := Nat.eq_zero_or_pos bw
  · rw [fieldAt, extractField, maskTo, pow_zero, Nat.mod_one, fieldValue]
  have hend : (i + 1) * bw ≤ s.srcLen.toNat / wBytes w * wBits w :=
    calc (i + 1) * bw ≤ s.count.toNat * bw := Nat.mul_le_mul_right _ hi
      _ ≤ s.srcLen.toNat / wBytes w * wBits w := hlen ▸ le_packedWords w _ _
  refine Nat.eq_of_testBit_eq fun t => ?_
  rw [packedWords, testBit_fieldAt_readWords s.mem _ hbw hpos hend, testBit_fieldValue]

theorem sameOutside_ddDecMem {w : Width} {s : State} (hwf : Memory.wf s.mem = true) :
    SameOutside [elementsPart w s] s.mem (ddDecMem w s) := by
  obtain ⟨job, -, hextent, -, hmem⟩ := ddDecPlan_eq w s
  rw [← hextent, ← hmem]
  exact sameOutside_storePieces hwf job.out

/-- Settles O39: MIN plus the field, modulo 2^W; MIN's own bits above W do not count. -/
theorem ddDecDecodes : Obligations.DdDecDecodes := by
  intro w s bw hwf hready
  refine ⟨ddDecMem w s, exec_ddDec_of_ready hready, fun i hi => ?_, sameOutside_ddDecMem hwf⟩
  rw [element_ddDecMem hwf hready.1.1 hi, fieldAt_packedWords hready.1 hi]
  rfl

end Sys2Proof.Proofs
end

section
/-!
PROOF. FS.SPLIT and FS.RECOMB (42_float_splitter.md R145 to R148): the channels FS.SPLIT writes, the values
FS.RECOMB rebuilds, and the round trip. XORing the prefixes of a channel undoes XORing each element with its
predecessor, and the three fields of a word make up the word.
-/

namespace Sys2Proof.Proofs

open Sys2Proof Sys2Proof.Machine Sys2Proof.Safety Sys2Proof.Laws

/-! ### Reads that a store does not reach -/

theorem readBytes_congr {m m' : Memory} {a n : Nat}
    (h : ∀ x, a ≤ x → x < a + n → readByte m' x = readByte m x) : readBytes m' a n = readBytes m a n := by
  induction n generalizing a with
  | zero => rfl
  | succ n ih =>
    rw [readBytes, readBytes, h a le_rfl (by omega), ih (fun x h1 h2 => h x (by omega) (by omega))]

theorem memRead_congr {m m' : Memory} {a n : Nat}
    (h : ∀ x, a ≤ x → x < a + n → readByte m' x = readByte m x) : memRead m' a n = memRead m a n := by
  rw [memRead, memRead, readBytes_congr h]

/-- The bytes of an element lie in its array. -/
theorem element_bytes_lt {B i n : Nat} (hi : i < n) : i * B + B ≤ n * B := by
  calc i * B + B = (i + 1) * B := by ring
    _ ≤ n * B := Nat.mul_le_mul_right _ hi

theorem element_congr {w : Width} {m m' : Memory} {a n : Nat}
    (h : ∀ x, a ≤ x → x < a + n * wBytes w → readByte m' x = readByte m x) {i : Nat} (hi : i < n) :
    element w m' a i = element w m a i := by
  have hend := element_bytes_lt (B := wBytes w) hi
  exact memRead_congr fun x h1 h2 => h x (by omega) (by omega)

/-- A byte of a buffer is no byte of a buffer apart from it. -/
theorem not_covers_singleton_of_apart {b c : Buf} (h : Apart b c) {a : Nat} (ha : b.addr ≤ a)
    (hb : a < b.addr + b.len) : ¬Covers [c] a := by
  simp only [covers_cons, covers_nil, or_false]
  obtain h | h | h | h := h <;> omega

/-- An array apart from a store's bytes keeps its elements. -/
theorem element_writeBytes_of_apart {m : Memory} (hwf : Memory.wf m = true) {w : Width} {a n x : Nat}
    {bs : List Byte} (h : Apart ⟨a, n * wBytes w⟩ ⟨x, bs.length⟩) {i : Nat} (hi : i < n) :
    element w (writeBytes m x bs) a i = element w m a i :=
  element_congr (fun y h1 h2 => (sameOutside_iff _ _ _).mp (sameOutside_writeBytes hwf x bs) y
    (not_covers_singleton_of_apart h h1 h2)) hi

/-! ### XOR chains (R146, R147) -/

theorem length_xorDelta (xs : List Nat) : (xorDelta xs).length = xs.length := by
  have hprev : ∀ (xs : List Nat) (p : Nat), (xorWithPrevious p xs).length = xs.length := by
    intro xs
    induction xs with
    | nil => intro p; rfl
    | cons x xs ih => intro p; rw [xorWithPrevious, List.length_cons, List.length_cons, ih]
  cases xs with
  | nil => rfl
  | cons x xs => rw [xorDelta, List.length_cons, List.length_cons, hprev]

theorem getD_xorWithPrevious (xs : List Nat) (p : Nat) {i : Nat} (hi : i < xs.length) :
    (xorWithPrevious p xs).getD i 0 = xs.getD i 0 ^^^ (p :: xs).getD i 0 := by
  induction xs generalizing p i with
  | nil => simp at hi
  | cons x xs ih =>
    cases i with
    | zero => rfl
    | succ i =>
      rw [xorWithPrevious, List.getD_cons_succ, ih x (by simpa using hi), List.getD_cons_succ,
        List.getD_cons_succ]

/-- R146: each element XORed with the original one before it. -/
theorem getD_xorDelta {xs : List Nat} {i : Nat} (hi : i < xs.length) :
    (xorDelta xs).getD i 0 = if i = 0 then xs.getD 0 0 else xs.getD i 0 ^^^ xs.getD (i - 1) 0 := by
  cases xs with
  | nil => simp at hi
  | cons x xs =>
    cases i with
    | zero => rfl
    | succ i =>
      rw [xorDelta, List.getD_cons_succ, getD_xorWithPrevious xs x (by simpa using hi),
        List.getD_cons_succ]
      rfl

theorem length_undoFrom (ds : List Nat) (p : Nat) : (undoFrom p ds).length = ds.length := by
  induction ds generalizing p with
  | nil => rfl
  | cons d ds ih => rw [undoFrom, List.length_cons, List.length_cons, ih]

theorem length_xorUndo (ds : List Nat) : (xorUndo ds).length = ds.length := by
  cases ds with
  | nil => rfl
  | cons d ds => rw [xorUndo, List.length_cons, List.length_cons, length_undoFrom]

theorem xorPrefix_succ (f : Nat → Nat) (n : Nat) : xorPrefix f (n + 1) = xorPrefix f n ^^^ f (n + 1) := rfl

theorem xorPrefix_congr {f g : Nat → Nat} {n : Nat} (h : ∀ i ≤ n, f i = g i) :
    xorPrefix f n = xorPrefix g n := by
  induction n with
  | zero => exact h 0 le_rfl
  | succ n ih => rw [xorPrefix_succ, xorPrefix_succ, ih (fun i hi => h i (by omega)), h _ le_rfl]

theorem xorPrefix_lt {f : Nat → Nat} {n k : Nat} (h : ∀ i ≤ n, f i < 2 ^ k) : xorPrefix f n < 2 ^ k := by
  induction n with
  | zero => exact h 0 le_rfl
  | succ n ih => exact Nat.xor_lt_two_pow (ih fun i hi => h i (by omega)) (h _ le_rfl)

theorem getD_undoFrom (ds : List Nat) (p : Nat) {i : Nat} (hi : i < ds.length) :
    (undoFrom p ds).getD i 0 = xorPrefix (fun j => (p :: ds).getD j 0) (i + 1) := by
  induction i generalizing p ds with
  | zero =>
    obtain ⟨d, ds, rfl⟩ := List.exists_cons_of_length_pos hi
    rfl
  | succ i ih =>
    have hstep : ∀ (ds : List Nat) (p : Nat), i + 1 < ds.length →
        (undoFrom p ds).getD (i + 1) 0 = (undoFrom p ds).getD i 0 ^^^ ds.getD (i + 1) 0 := by
      intro ds
      clear hi ih
      induction i generalizing ds with
      | zero =>
        intro p hlen
        match ds, hlen with
        | d :: e :: ds, _ => rfl
      | succ i ih =>
        intro p hlen
        match ds, hlen with
        | d :: ds, hlen => exact ih ds (p ^^^ d) (by simpa using hlen)
    rw [hstep ds p hi, ih ds p (by omega), xorPrefix_succ _ (i + 1)]
    rfl

/-- R147: each rebuilt element is the XOR of the channel up to it. -/
theorem getD_xorUndo {ds : List Nat} {i : Nat} (hi : i < ds.length) :
    (xorUndo ds).getD i 0 = xorPrefix (fun j => ds.getD j 0) i := by
  obtain ⟨d, ds, rfl⟩ := List.exists_cons_of_length_pos (Nat.zero_lt_of_lt hi)
  cases i with
  | zero => rfl
  | succ i => rw [xorUndo, List.getD_cons_succ, getD_undoFrom ds d (by simpa using hi)]

/-- The XOR chain of R146 collapses under R147. -/
theorem xorPrefix_delta (f : Nat → Nat) (n : Nat) :
    xorPrefix (fun i => if i = 0 then f 0 else f i ^^^ f (i - 1)) n = f n := by
  induction n with
  | zero => rfl
  | succ n ih =>
    rw [xorPrefix_succ, ih, if_neg (Nat.succ_ne_zero n), Nat.add_sub_cancel, Nat.xor_comm (f (n + 1)),
      ← Nat.xor_assoc, Nat.xor_self, Nat.zero_xor]

/-! ### The fields of a word (R145) -/

/-- W = 1 + E + M. -/
theorem wBits_eq_fields (w : Width) : wBits w - 1 = sigBits w + expBits w := by cases w <;> rfl

theorem signOf_eq (w : Width) (b : Nat) : signOf w b = b / 2 ^ (wBits w - 1) :=
  Nat.shiftRight_eq_div_pow _ _

theorem exponentOf_eq (w : Width) (b : Nat) : exponentOf w b = b / 2 ^ sigBits w % 2 ^ expBits w := by
  rw [exponentOf, maskTo, Nat.shiftRight_eq_div_pow]

theorem significandOf_eq (w : Width) (b : Nat) : significandOf w b = b % 2 ^ sigBits w := rfl

theorem signOf_le_one {w : Width} {b : Nat} (hb : b < 2 ^ wBits w) : signOf w b ≤ 1 := by
  rw [signOf_eq, Nat.div_le_iff_le_mul_add_pred (by positivity)]
  have hW : 2 ^ wBits w = 2 ^ (wBits w - 1) * 2 := by rw [← pow_succ, Nat.sub_add_cancel (wBits_pos w)]
  omega

theorem exponentOf_lt (w : Width) (b : Nat) : exponentOf w b < 2 ^ expBits w := maskTo_lt _ _

theorem significandOf_lt (w : Width) (b : Nat) : significandOf w b < 2 ^ sigBits w := maskTo_lt _ _

theorem two_pow_expBits_le (w : Width) : 2 ^ expBits w ≤ 2 ^ wBits w :=
  Nat.pow_le_pow_right (by decide) (by cases w <;> decide)

theorem two_pow_sigBits_le (w : Width) : 2 ^ sigBits w ≤ 2 ^ wBits w :=
  Nat.pow_le_pow_right (by decide) (by cases w <;> decide)

/-- Fields within their widths assemble to a word. -/
theorem assemble_lt {w : Width} {sg e m : Nat} (hs : sg ≤ 1) (he : e < 2 ^ expBits w)
    (hm : m < 2 ^ sigBits w) : assemble w sg e m < 2 ^ wBits w := by
  have hW : 2 ^ wBits w = 2 ^ (wBits w - 1) * 2 := by rw [← pow_succ, Nat.sub_add_cancel (wBits_pos w)]
  have hEM : 2 ^ (wBits w - 1) = 2 ^ sigBits w * 2 ^ expBits w := by rw [← pow_add, ← wBits_eq_fields]
  have hsg : sg <<< (wBits w - 1) < 2 ^ wBits w := by
    rw [Nat.shiftLeft_eq, hW, Nat.mul_comm]
    exact Nat.mul_lt_mul_of_pos_left (by omega) (by positivity)
  have hexp : e <<< sigBits w < 2 ^ wBits w := by
    rw [Nat.shiftLeft_eq, hW, hEM, Nat.mul_comm e]
    have := Nat.mul_lt_mul_of_pos_left he (show 0 < 2 ^ sigBits w by positivity)
    omega
  exact Nat.or_lt_two_pow (Nat.or_lt_two_pow hsg hexp) (hm.trans_le (two_pow_sigBits_le w))

/-- The three fields of a word make up the word. -/
theorem assemble_fields {w : Width} (b : Nat) :
    assemble w (signOf w b) (exponentOf w b) (significandOf w b) = b := by
  refine Nat.eq_of_testBit_eq fun t => ?_
  have hW := wBits_eq_fields w
  simp only [assemble, signOf, exponentOf, significandOf, Nat.testBit_or, Nat.testBit_shiftLeft,
    Nat.testBit_shiftRight, testBit_maskTo]
  by_cases htop : wBits w - 1 ≤ t
  · have hexp : ¬t - sigBits w < expBits w := by omega
    have hsig : ¬t < sigBits w := by omega
    simp [htop, hexp, hsig]
  · by_cases hsig : t < sigBits w
    · simp [htop, hsig]
    · have hexp : t - sigBits w < expBits w := by omega
      simp [htop, hsig, hexp, Nat.le_of_not_lt hsig]

/-! ### FS.SPLIT (R146) -/

theorem fsSplitChecks_pass_iff (w : Width) (s : State) :
    firstFailure (fsSplitChecks w s) = none ↔ FsSplitLegal w s := by
  simp [firstFailure_eq_none_iff, fsSplitChecks, FsSplitLegal, badCount_eq_false_iff,
    notMultiple_eq_false_iff, outOfSpace_eq_false_iff, disjoint_iff, and_assoc]

/-- The memory after FS.SPLIT. -/
def fsSplitMem (w : Width) (s : State) : Memory :=
  storePieces s.mem
    [ ⟨s.ch0Addr.toNat, wordsBytes (wBytes w) (signChannel w (srcElements w s))⟩,
      ⟨s.ch1Addr.toNat, wordsBytes (wBytes w) (exponentChannel w (srcElements w s))⟩,
      ⟨s.ch2Addr.toNat, wordsBytes (wBytes w) (significandChannel w (srcElements w s))⟩ ]

theorem length_srcElements (w : Width) (s : State) : (srcElements w s).length = s.count.toNat :=
  length_readWords _ _ _ _

theorem length_signChannel (w : Width) (vs : List Nat) : (signChannel w vs).length = vs.length :=
  List.length_map _

theorem length_exponentChannel (w : Width) (vs : List Nat) :
    (exponentChannel w vs).length = vs.length := by
  rw [exponentChannel, length_xorDelta, List.length_map]

theorem length_significandChannel (w : Width) (vs : List Nat) :
    (significandChannel w vs).length = vs.length := by
  rw [significandChannel, length_xorDelta, List.length_map]

/-- What READ prepares for FS.SPLIT. -/
theorem fsSplitPlan_eq (w : Width) (s : State) :
    ∃ job, fsSplitPlan w s = .ok job ∧ extentOf job.out = channelArrays w s ∧
      job.commit = { outLen := some (BitVec.ofNat 64 (s.count.toNat * wBytes w)) } ∧
      storePieces s.mem job.out = fsSplitMem w s := by
  refine ⟨_, rfl, ?_, rfl, rfl⟩
  simp only [extentOf, List.map_cons, List.map_nil, length_wordsBytes, length_signChannel,
    length_exponentChannel, length_significandChannel, length_srcElements]
  rfl

theorem exec_fsSplit_of_ready {w : Width} {s : State} (h : FsSplitReady w s) :
    exec (.fsSplit w) s = .next ({ s with mem := fsSplitMem w s }.succeed
      { outLen := some (BitVec.ofNat 64 (s.count.toNat * wBytes w)) }) := by
  obtain ⟨hlegal, hsrc, hchannels, hquiet⟩ := h
  obtain ⟨job, hplan, hextent, hcommit, hmem⟩ := fsSplitPlan_eq w s
  have hreach : ReachesCommit (fsSplitRule w) s job :=
    ⟨(fsSplitChecks_pass_iff w s).mpr hlegal, List.forall_mem_singleton.mpr hsrc, hplan,
      hextent ▸ hchannels⟩
  rw [exec_fsSplit, runRule_of_reachesCommit hreach hquiet, hmem, hcommit]

theorem fsSplitReady_of_err_eq_zero {w : Width} {s t : State}
    (hquiet : isRaced [srcArray w s, ch0Array w s, ch1Array w s, ch2Array w s] s = false)
    (hexec : exec (.fsSplit w) s = .next t) (herr : t.err = 0) : FsSplitReady w s := by
  obtain rfl : runRule (fsSplitRule w) s = t :=
    Host.Outcome.next.inj ((exec_fsSplit w s).symm.trans hexec)
  obtain ⟨job, hchecks, hreads, hplan, hwrites⟩ := reachesCommit_of_err_eq_zero herr
  obtain ⟨job', hplan', hextent, -, -⟩ := fsSplitPlan_eq w s
  obtain rfl : job = job' := Except.ok.inj (hplan.symm.trans hplan')
  exact ⟨(fsSplitChecks_pass_iff w s).mp hchecks, List.forall_mem_singleton.mp hreads,
    hextent ▸ hwrites, hquiet⟩

theorem getD_map_srcElements (w : Width) (s : State) (f : Nat → Nat) {i : Nat} (hi : i < s.count.toNat) :
    ((srcElements w s).map f).getD i 0 = f (element w s.mem s.srcAddr.toNat i) := by
  rw [srcElements, readWords_eq_map]
  simp [hi, element]

/-- Element i of a channel of XORed fields, in terms of the source elements. -/
theorem getD_xorDelta_srcElements (w : Width) (s : State) (f : Nat → Nat) {i : Nat}
    (hi : i < s.count.toNat) :
    (xorDelta ((srcElements w s).map f)).getD i 0 =
      if i = 0 then f (element w s.mem s.srcAddr.toNat 0)
      else f (element w s.mem s.srcAddr.toNat i) ^^^ f (element w s.mem s.srcAddr.toNat (i - 1)) := by
  rw [getD_xorDelta (by rwa [List.length_map, length_srcElements]), getD_map_srcElements w s f hi,
    getD_map_srcElements w s f (by omega), getD_map_srcElements w s f (by omega)]

/-- Three arrays stored one after another, apart from each other: each reads back. -/
theorem element_storeThree {m : Memory} (hwf : Memory.wf m = true) {w : Width} {a b c n : Nat}
    {xs ys zs : List Nat} (hxs : xs.length = n) (hys : ys.length = n) (hzs : zs.length = n)
    (hab : Apart ⟨a, n * wBytes w⟩ ⟨b, n * wBytes w⟩) (hac : Apart ⟨a, n * wBytes w⟩ ⟨c, n * wBytes w⟩)
    (hbc : Apart ⟨b, n * wBytes w⟩ ⟨c, n * wBytes w⟩) {i : Nat} (hi : i < n) :
    element w (storePieces m [⟨a, wordsBytes (wBytes w) xs⟩, ⟨b, wordsBytes (wBytes w) ys⟩,
        ⟨c, wordsBytes (wBytes w) zs⟩]) a i = maskTo (wBits w) (xs.getD i 0) ∧
      element w (storePieces m [⟨a, wordsBytes (wBytes w) xs⟩, ⟨b, wordsBytes (wBytes w) ys⟩,
        ⟨c, wordsBytes (wBytes w) zs⟩]) b i = maskTo (wBits w) (ys.getD i 0) ∧
      element w (storePieces m [⟨a, wordsBytes (wBytes w) xs⟩, ⟨b, wordsBytes (wBytes w) ys⟩,
        ⟨c, wordsBytes (wBytes w) zs⟩]) c i = maskTo (wBits w) (zs.getD i 0) := by
  have hwf1 := writeBytes_wf a (wordsBytes (wBytes w) xs) hwf
  have hwf2 := writeBytes_wf b (wordsBytes (wBytes w) ys) hwf1
  simp only [storePieces]
  refine ⟨?_, ?_, ?_⟩
  · rw [element_writeBytes_of_apart hwf2 (by rwa [length_wordsBytes, hzs]) hi,
      element_writeBytes_of_apart hwf1 (by rwa [length_wordsBytes, hys]) hi,
      element_writeWords hwf w a xs (hxs.symm ▸ hi)]
  · rw [element_writeBytes_of_apart hwf2 (by rwa [length_wordsBytes, hzs]) hi,
      element_writeWords hwf1 w b ys (hys.symm ▸ hi)]
  · rw [element_writeWords hwf2 w c zs (hzs.symm ▸ hi)]

/-- R146: the elements of the three channels. -/
theorem element_fsSplitMem {w : Width} {s : State} (hwf : Memory.wf s.mem = true)
    (hlegal : FsSplitLegal w s) {i : Nat} (hi : i < s.count.toNat) :
    element w (fsSplitMem w s) s.ch0Addr.toNat i = signOf w (element w s.mem s.srcAddr.toNat i) ∧
      element w (fsSplitMem w s) s.ch1Addr.toNat i =
        (if i = 0 then exponentOf w (element w s.mem s.srcAddr.toNat 0)
          else exponentOf w (element w s.mem s.srcAddr.toNat i) ^^^
            exponentOf w (element w s.mem s.srcAddr.toNat (i - 1))) ∧
      element w (fsSplitMem w s) s.ch2Addr.toNat i =
        (if i = 0 then significandOf w (element w s.mem s.srcAddr.toNat 0)
          else significandOf w (element w s.mem s.srcAddr.toNat i) ^^^
            significandOf w (element w s.mem s.srcAddr.toNat (i - 1))) := by
  obtain ⟨-, -, -, -, -, -, h01, h02, h12⟩ := hlegal
  have hlen := length_srcElements w s
  obtain ⟨h0, h1, h2⟩ := element_storeThree hwf
    ((length_signChannel w (srcElements w s)).trans hlen)
    ((length_exponentChannel w (srcElements w s)).trans hlen)
    ((length_significandChannel w (srcElements w s)).trans hlen) h01 h02 h12 hi
  have hsign : signOf w (element w s.mem s.srcAddr.toNat i) < 2 ^ wBits w :=
    (signOf_le_one (element_lt w _ _ i)).trans_lt (Nat.one_lt_two_pow (wBits_pos w).ne')
  refine ⟨h0.trans ?_, h1.trans ?_, h2.trans ?_⟩
  · rw [signChannel, getD_map_srcElements w s _ hi, maskTo, Nat.mod_eq_of_lt hsign]
  · rw [exponentChannel, getD_xorDelta_srcElements w s _ hi, maskTo, Nat.mod_eq_of_lt]
    refine lt_of_lt_of_le ?_ (two_pow_expBits_le w)
    split
    · exact exponentOf_lt w _
    · exact Nat.xor_lt_two_pow (exponentOf_lt w _) (exponentOf_lt w _)
  · rw [significandChannel, getD_xorDelta_srcElements w s _ hi, maskTo, Nat.mod_eq_of_lt]
    refine lt_of_lt_of_le ?_ (two_pow_sigBits_le w)
    split
    · exact significandOf_lt w _
    · exact Nat.xor_lt_two_pow (significandOf_lt w _) (significandOf_lt w _)

theorem sameOutside_fsSplitMem {w : Width} {s : State} (hwf : Memory.wf s.mem = true) :
    SameOutside (channelArrays w s) s.mem (fsSplitMem w s) := by
  obtain ⟨job, -, hextent, -, hmem⟩ := fsSplitPlan_eq w s
  rw [← hextent, ← hmem]
  exact sameOutside_storePieces hwf job.out

/-- Settles O43: the channels' elements and the frame of the three arrays. -/
theorem fsSplitSplits : Obligations.FsSplitSplits := by
  intro w s hwf hready
  refine ⟨fsSplitMem w s, exec_fsSplit_of_ready hready, fun i hi => ?_, sameOutside_fsSplitMem hwf⟩
  simp only [← signOf_eq, ← exponentOf_eq, ← significandOf_eq]
  exact element_fsSplitMem hwf hready.1 hi

/-! ### FS.RECOMB (R147) -/

theorem fsRecombChecks_pass_iff (w : Width) (s : State) :
    firstFailure (fsRecombChecks w s) = none ↔ FsRecombLegal w s := by
  simp [firstFailure_eq_none_iff, fsRecombChecks, FsRecombLegal, badCount_eq_false_iff,
    notMultiple_eq_false_iff, outOfSpace_eq_false_iff, disjoint_iff, and_assoc]

theorem channelElements_eq_map (w : Width) (s : State) (a : Word) :
    channelElements w s a = (List.range s.count.toNat).map (element w s.mem a.toNat) :=
  readWords_eq_map _ _ _ _

/-- R147, check 8. -/
theorem fieldOutOfRange_eq_false_iff (w : Width) (s : State) :
    fieldOutOfRange w (channelElements w s s.ch0Addr) (channelElements w s s.ch1Addr)
      (channelElements w s s.ch2Addr) = false ↔ ChannelsFit w s := by
  simp only [fieldOutOfRange, channelElements_eq_map, Bool.or_eq_false_iff, List.any_eq_false,
    decide_eq_true_eq, List.forall_mem_map, List.mem_range, not_lt, not_le, ChannelsFit, and_assoc,
    forall_and]

theorem fsRecombPlan_of_wide {w : Width} {s : State} (h : ¬ChannelsFit w s) :
    fsRecombPlan w s = .error .fieldRange := by
  rw [← fieldOutOfRange_eq_false_iff, Bool.not_eq_false] at h
  exact if_pos h

/-- The values FS.RECOMB rebuilds. -/
def recombinedValues (w : Width) (s : State) : List Nat :=
  recombined w (channelElements w s s.ch0Addr) (channelElements w s s.ch1Addr)
    (channelElements w s s.ch2Addr)

theorem length_channelElements (w : Width) (s : State) (a : Word) :
    (channelElements w s a).length = s.count.toNat := length_readWords _ _ _ _

theorem getD_channelElements (w : Width) (s : State) (a : Word) {i : Nat} (hi : i < s.count.toNat) :
    (channelElements w s a).getD i 0 = element w s.mem a.toNat i :=
  getD_readWords _ _ _ _ _ hi _

theorem length_assembleAll (w : Width) {n : Nat} {sgs es ms : List Nat} (hs : sgs.length = n)
    (he : es.length = n) (hm : ms.length = n) : (assembleAll w sgs es ms).length = n := by
  induction sgs generalizing n es ms with
  | nil => exact hs
  | cons sg sgs ih =>
    obtain rfl : sgs.length + 1 = n := hs
    obtain ⟨e, es, rfl⟩ := List.exists_cons_of_length_eq_add_one he
    obtain ⟨m, ms, rfl⟩ := List.exists_cons_of_length_eq_add_one hm
    rw [assembleAll, List.length_cons, ih rfl (Nat.succ.inj he) (Nat.succ.inj hm)]

theorem getD_assembleAll (w : Width) {n : Nat} {sgs es ms : List Nat} (hs : sgs.length = n)
    (he : es.length = n) (hm : ms.length = n) {i : Nat} (hi : i < n) :
    (assembleAll w sgs es ms).getD i 0 = assemble w (sgs.getD i 0) (es.getD i 0) (ms.getD i 0) := by
  induction sgs generalizing n es ms i with
  | nil => simp at hs; omega
  | cons sg sgs ih =>
    obtain rfl : sgs.length + 1 = n := hs
    obtain ⟨e, es, rfl⟩ := List.exists_cons_of_length_eq_add_one he
    obtain ⟨m, ms, rfl⟩ := List.exists_cons_of_length_eq_add_one hm
    cases i with
    | zero => rfl
    | succ i =>
      rw [assembleAll, List.getD_cons_succ, ih rfl (Nat.succ.inj he) (Nat.succ.inj hm) (by omega)]
      rfl

theorem length_recombinedValues (w : Width) (s : State) :
    (recombinedValues w s).length = s.count.toNat :=
  length_assembleAll w (length_channelElements w s _)
    ((length_xorUndo _).trans (length_channelElements w s _))
    ((length_xorUndo _).trans (length_channelElements w s _))

/-- The exponent or significand rebuilt for value i. -/
theorem getD_xorUndo_channelElements (w : Width) (s : State) (a : Word) {i : Nat}
    (hi : i < s.count.toNat) :
    (xorUndo (channelElements w s a)).getD i 0 = xorPrefix (element w s.mem a.toNat) i := by
  rw [getD_xorUndo (by rwa [length_channelElements])]
  exact xorPrefix_congr fun j hj => getD_channelElements w s a (by omega)

theorem getD_recombinedValues (w : Width) (s : State) {i : Nat} (hi : i < s.count.toNat) :
    (recombinedValues w s).getD i 0 =
      assemble w (element w s.mem s.ch0Addr.toNat i) (xorPrefix (element w s.mem s.ch1Addr.toNat) i)
        (xorPrefix (element w s.mem s.ch2Addr.toNat) i) := by
  rw [recombinedValues, recombined, getD_assembleAll w (length_channelElements w s _)
      ((length_xorUndo _).trans (length_channelElements w s _))
      ((length_xorUndo _).trans (length_channelElements w s _)) hi,
    getD_channelElements w s _ hi, getD_xorUndo_channelElements w s _ hi,
    getD_xorUndo_channelElements w s _ hi]

/-- The memory after FS.RECOMB. -/
def fsRecombMem (w : Width) (s : State) : Memory :=
  writeBytes s.mem s.dstAddr.toNat (wordsBytes (wBytes w) (recombinedValues w s))

/-- What READ prepares for FS.RECOMB when every channel element fits its field. -/
theorem fsRecombPlan_of_fit {w : Width} {s : State} (h : ChannelsFit w s) :
    ∃ job, fsRecombPlan w s = .ok job ∧ extentOf job.out = [elementsPart w s] ∧
      job.commit = { outLen := some (BitVec.ofNat 64 (s.count.toNat * wBytes w)) } ∧
      storePieces s.mem job.out = fsRecombMem w s := by
  refine ⟨_, if_neg (Bool.not_eq_true _ ▸ (fieldOutOfRange_eq_false_iff w s).mpr h), ?_, rfl, rfl⟩
  have hlen := length_recombinedValues w s
  rw [recombinedValues] at hlen
  simp only [wordsJob, extentOf, List.map_cons, List.map_nil, length_wordsBytes, hlen, elementsPart,
    dstPart]

theorem exec_fsRecomb_of_ready {w : Width} {s : State} (h : FsRecombReady w s) :
    exec (.fsRecomb w) s = .next ({ s with mem := fsRecombMem w s }.succeed
      { outLen := some (BitVec.ofNat 64 (s.count.toNat * wBytes w)) }) := by
  obtain ⟨⟨hlegal, hchannels⟩, hfit, hdst, hquiet⟩ := h
  obtain ⟨job, hplan, hextent, hcommit, hmem⟩ := fsRecombPlan_of_fit hfit
  have hreach : ReachesCommit (fsRecombRule w) s job :=
    ⟨(fsRecombChecks_pass_iff w s).mpr hlegal, hchannels, hplan,
      hextent ▸ List.forall_mem_singleton.mpr hdst⟩
  rw [exec_fsRecomb, runRule_of_reachesCommit hreach hquiet, hmem, hcommit]

/-- R147: the value rebuilt. -/
theorem element_fsRecombMem {w : Width} {s : State} (hwf : Memory.wf s.mem = true)
    (hfit : ChannelsFit w s) {i : Nat} (hi : i < s.count.toNat) :
    element w (fsRecombMem w s) s.dstAddr.toNat i =
      assemble w (element w s.mem s.ch0Addr.toNat i) (xorPrefix (element w s.mem s.ch1Addr.toNat) i)
        (xorPrefix (element w s.mem s.ch2Addr.toNat) i) := by
  obtain ⟨hsign, -, -⟩ := hfit i hi
  rw [fsRecombMem, element_writeWords hwf _ _ _ (by rwa [length_recombinedValues]),
    getD_recombinedValues w s hi, maskTo, Nat.mod_eq_of_lt]
  refine assemble_lt hsign (xorPrefix_lt fun j hj => ?_) (xorPrefix_lt fun j hj => ?_)
  · exact (hfit j (by omega)).2.1
  · exact (hfit j (by omega)).2.2

theorem sameOutside_fsRecombMem {w : Width} {s : State} (hwf : Memory.wf s.mem = true) :
    SameOutside [elementsPart w s] s.mem (fsRecombMem w s) := by
  have h := sameOutside_writeBytes hwf s.dstAddr.toNat (wordsBytes (wBytes w) (recombinedValues w s))
  rwa [length_wordsBytes, length_recombinedValues] at h

/-- Settles O44: the rebuilt values and the frame. -/
theorem fsRecombRebuilds : Obligations.FsRecombRebuilds := fun w s hwf hready =>
  ⟨fsRecombMem w s, exec_fsRecomb_of_ready hready, fun _ hi => element_fsRecombMem hwf hready.2.1 hi,
    sameOutside_fsRecombMem hwf⟩

/-- Settles O45: READ's own check fails, before anything is written. -/
theorem fsRecombRejectsWideElements : Obligations.FsRecombRejectsWideElements := by
  rintro w s ⟨hlegal, hchannels⟩ hwide
  have hreads : refusedIn s.cfg ((fsRecombRule w).reads s) = [] :=
    (refusedIn_eq_nil_iff_allAdmitted _ _).mpr hchannels
  rw [exec_fsRecomb, runRule_of_readError ((fsRecombChecks_pass_iff w s).mpr hlegal)
    ((readPhase_of_admitted hreads).trans (fsRecombPlan_of_wide hwide))]
  rfl

/-! ### The round trip (R148) -/

/-- FS.RECOMB in `u` names the channels that FS.SPLIT in `s` wrote. -/
structure ReadsChannels (w : Width) (s u : State) : Prop where
  cfg : u.cfg = s.cfg
  mem : u.mem = fsSplitMem w s
  ch0 : u.ch0Addr = s.ch0Addr
  ch1 : u.ch1Addr = s.ch1Addr
  ch2 : u.ch2Addr = s.ch2Addr
  count : u.count = s.count

theorem channelsFit_of_readsChannels {w : Width} {s u : State} (hwf : Memory.wf s.mem = true)
    (hlegal : FsSplitLegal w s) (hu : ReadsChannels w s u) : ChannelsFit w u := by
  intro i hi
  rw [hu.count] at hi
  obtain ⟨h0, h1, h2⟩ := element_fsSplitMem hwf hlegal hi
  rw [hu.mem, hu.ch0, hu.ch1, hu.ch2, h0, h1, h2]
  refine ⟨signOf_le_one (element_lt w _ _ i), ?_, ?_⟩
  · split
    · exact exponentOf_lt w _
    · exact Nat.xor_lt_two_pow (exponentOf_lt w _) (exponentOf_lt w _)
  · split
    · exact significandOf_lt w _
    · exact Nat.xor_lt_two_pow (significandOf_lt w _) (significandOf_lt w _)

theorem fsRecombReady_of_fsSplitReady {w : Width} {s u : State} (hwf : Memory.wf s.mem = true)
    (h : FsSplitReady w s) (hu : ReadsChannels w s u) (hdst : DestinationOk w u)
    (hapart : FsRecombApart w u)
    (hquiet : isRaced [ch0Array w u, ch1Array w u, ch2Array w u, dstBuf u] u = false) :
    FsRecombReady w u := by
  have hfit := channelsFit_of_readsChannels hwf h.1 hu
  obtain ⟨⟨hn, ⟨-, hal0, hal1, hal2⟩, ⟨-, hsp0, hsp1, hsp2⟩, -⟩, -, hadmitted, -⟩ := h
  obtain ⟨halign, hspace, hcap, hadmitted'⟩ := hdst
  obtain ⟨hcfg, -, hch0, hch1, hch2, hcount⟩ := hu
  have hbuf0 : ch0Array w u = ch0Array w s := by rw [ch0Array, ch0Array, hch0, hcount]
  have hbuf1 : ch1Array w u = ch1Array w s := by rw [ch1Array, ch1Array, hch1, hcount]
  have hbuf2 : ch2Array w u = ch2Array w s := by rw [ch2Array, ch2Array, hch2, hcount]
  refine ⟨⟨⟨?_, ⟨?_, ?_, ?_, halign⟩, ⟨?_, ?_, ?_, hspace⟩, hapart, hcap⟩, ?_⟩, hfit, hadmitted', hquiet⟩
  · rwa [CountOk, hcount]
  · rwa [hch0]
  · rwa [hch1]
  · rwa [hch2]
  · rwa [InSpace, hbuf0, hcfg]
  · rwa [InSpace, hbuf1, hcfg]
  · rwa [InSpace, hbuf2, hcfg]
  · rwa [channelArrays, hbuf0, hbuf1, hbuf2, hcfg]

/-- The exponents and significands rebuilt are the original ones, so the words are. -/
theorem element_fsRecombMem_of_readsChannels {w : Width} {s u : State} (hwf : Memory.wf s.mem = true)
    (hlegal : FsSplitLegal w s) (hu : ReadsChannels w s u) {i : Nat} (hi : i < s.count.toNat) :
    element w (fsRecombMem w u) u.dstAddr.toNat i = element w s.mem s.srcAddr.toNat i := by
  have hfit := channelsFit_of_readsChannels hwf hlegal hu
  have hwf' : Memory.wf u.mem = true := hu.mem ▸ storePieces_wf _ hwf
  have hexp : xorPrefix (element w (fsSplitMem w s) s.ch1Addr.toNat) i =
      exponentOf w (element w s.mem s.srcAddr.toNat i) := by
    rw [← xorPrefix_delta (fun j => exponentOf w (element w s.mem s.srcAddr.toNat j)) i]
    exact xorPrefix_congr fun j hj => (element_fsSplitMem hwf hlegal (by omega)).2.1
  have hsig : xorPrefix (element w (fsSplitMem w s) s.ch2Addr.toNat) i =
      significandOf w (element w s.mem s.srcAddr.toNat i) := by
    rw [← xorPrefix_delta (fun j => significandOf w (element w s.mem s.srcAddr.toNat j)) i]
    exact xorPrefix_congr fun j hj => (element_fsSplitMem hwf hlegal (by omega)).2.2
  rw [element_fsRecombMem hwf' hfit (hu.count ▸ hi), hu.mem, hu.ch0, hu.ch1, hu.ch2, hexp, hsig,
    (element_fsSplitMem hwf hlegal hi).1, assemble_fields]

/-- Settles O47: what FS.SPLIT left satisfies FS.RECOMB's checks, and each word is rebuilt from its fields. -/
theorem floatRoundTrip : Obligations.FloatRoundTrip := by
  intro w s t u hwf hquiet hexec herr hcfg hmem hch0 hch1 hch2 hcount hdst h0 h1 h2 hquiet'
  have hready := fsSplitReady_of_err_eq_zero hquiet hexec herr
  obtain rfl := Host.Outcome.next.inj ((exec_fsSplit_of_ready hready).symm.trans hexec)
  have hu : ReadsChannels w s u := ⟨hcfg, hmem, hch0, hch1, hch2, hcount⟩
  have hrecomb := fsRecombReady_of_fsSplitReady hwf hready hu hdst ⟨h0, h1, h2⟩ hquiet'
  exact ⟨_, exec_fsRecomb_of_ready hrecomb, rfl, fun i hi =>
    element_fsRecombMem_of_readsChannels hwf hready.1 hu hi⟩

end Sys2Proof.Proofs
end

section
/-!
PROOF. The selector FSM row by row (43_channel_compressor.md R162): an equation for each row, and the list of all
of them, so that a property of the FSM is proved by cases on the row a move takes.
-/

namespace Sys2Proof.Proofs

open Sys2Proof Sys2Proof.Machine Sys2Proof.Safety Sys2Proof.Laws

/-! ### States between the rows -/

/-- CC.EXPAND under tag NONE copies (R164). -/
def Copies (op : PortOp) (s : State) : Prop := op = .decompress ∧ s.algo.toNat = 0

/-- The tag of an empty output (R162, CHECK → COMMIT). -/
def emptyTag : PortOp → State → Nat
  | .compress, _ => 0
  | .decompress, s => s.algo.toNat

/-- The tag of the first request (R162, CHECK → SIZE). -/
def firstTag : PortOp → State → Nat
  | .compress, _ => 1
  | .decompress, s => s.algo.toNat

/-- CHECK → COPY. -/
def toCopy (s : State) : State :=
  { s with engine := { s.engine with fsm := .copy, mode := s.engine.mode.atPhase .read } }

/-- The input bytes of a SIZE: those the engine holds, or those it reads now. -/
def SizeInput (s : State) (bs : List Byte) : Prop :=
  s.engine.input = some bs ∨
    (s.engine.input = none ∧ refusedIn s.cfg [srcBuf s] = [] ∧ bs = ccInput s)

/-- A request has been sent for the input bytes, which the engine holds. -/
def asked (bs : List Byte) (s : State) : State :=
  { s with service := s.service.drop 1, engine := { s.engine with input := some bs } }

/-- No response yet. -/
def waiting (q : Request) (s : State) : State := { s with engine := { s.engine with request := some q } }

/-- An output of this length is the best so far: always for CC.EXPAND, the shortest for CC.SELECT. -/
def consider (op : PortOp) (len : Nat) (s : State) : State :=
  if op = .decompress ∨ shorter len s.engine.bestLen = true then setBest s.engine.k len s else s

/-- SIZE → SIZE with the next tag. -/
def nextTag (s : State) : State := { s with engine := { s.engine with k := s.engine.k + 1 } }

/-- SIZE → PICK. -/
def toPick (s : State) : State := { s with engine := { s.engine with fsm := .pick } }

/-- PICK → EMIT: WRITE is entered, with the output extent. -/
def toEmit (s : State) : State :=
  { s with
    engine :=
      { s.engine with
        fsm := .emit
        mode := s.engine.mode.atPhase .write
        extent := [⟨s.dstAddr.toNat, s.engine.bestLen.getD 0⟩] } }

/-- The service has used up an entry. -/
def served (s : State) : State := { s with service := s.service.drop 1 }

/-- COPY in WRITE, with the output extent. -/
def copying (s : State) : State :=
  { s with
    engine :=
      { s.engine with
        bestK := 0
        bestLen := some s.srcLen.toNat
        mode := s.engine.mode.atPhase .write
        extent := [⟨s.dstAddr.toNat, s.srcLen.toNat⟩] } }

/-- The output bytes are stored. -/
def stored (bs : List Byte) (s : State) : State := { s with mem := writeBytes s.mem s.dstAddr.toNat bs }

/-! ### CHECK -/

theorem fsmCheck_of_failure {op : PortOp} {s : State} {e : Cause}
    (h : firstFailure (ccChecks op s) = some e) : fsmCheck op s = toError e s := by
  simp [fsmCheck, h]

theorem fsmCheck_of_copies {op : PortOp} {s : State} (h : firstFailure (ccChecks op s) = none)
    (hc : Copies op s) : fsmCheck op s = toCopy s := by
  obtain ⟨rfl, halgo⟩ := hc
  simp only [fsmCheck, h, if_pos halgo, toCopy]

theorem fsmCheck_of_empty {op : PortOp} {s : State} (h : firstFailure (ccChecks op s) = none)
    (hc : ¬Copies op s) (hl : s.srcLen.toNat = 0) :
    fsmCheck op s = toCommit (setBest (emptyTag op s) 0 s) := by
  cases op
  · simp only [fsmCheck, h, if_pos hl, emptyTag]
  · have halgo : ¬s.algo.toNat = 0 := fun h0 => hc ⟨rfl, h0⟩
    simp only [fsmCheck, h, if_neg halgo, if_pos hl, emptyTag]

theorem fsmCheck_of_input {op : PortOp} {s : State} (h : firstFailure (ccChecks op s) = none)
    (hc : ¬Copies op s) (hl : s.srcLen.toNat ≠ 0) : fsmCheck op s = toSize (firstTag op s) s := by
  cases op
  · simp only [fsmCheck, h, if_neg hl, firstTag]
  · have halgo : ¬s.algo.toNat = 0 := fun h0 => hc ⟨rfl, h0⟩
    simp only [fsmCheck, h, if_neg halgo, if_neg hl, firstTag]

/-! ### SIZE -/

theorem asked_eq_of_held {s : State} {bs : List Byte} (h : s.engine.input = some bs) :
    asked bs s = served s := by
  simp only [asked, served, ← h]

theorem sendSize_eq (op : PortOp) (bs : List Byte) (s : State) (h : s.engine.input = some bs) :
    sendSize op bs s =
      match answerAt s 0 ⟨op, s.engine.k, bs⟩ with
      | none => waiting ⟨op, s.engine.k, bs⟩ (asked bs s)
      | some r => sizeAnswer op r (asked bs s) := by
  rw [asked_eq_of_held h]
  simp only [sendSize, ask_eq]
  cases answerAt s 0 ⟨op, s.engine.k, bs⟩ <;> rfl

theorem fsmSize_of_input {op : PortOp} {s : State} {bs : List Byte} (h : SizeInput s bs) :
    fsmSize op s =
      match answerAt s 0 ⟨op, s.engine.k, bs⟩ with
      | none => waiting ⟨op, s.engine.k, bs⟩ (asked bs s)
      | some r => sizeAnswer op r (asked bs s) := by
  obtain h | ⟨h, hr, rfl⟩ := h
  · rw [fsmSize_of_held h, sendSize_eq op bs s h]
  · rw [fsmSize_of_read h hr, sendSize_eq op (ccInput s) (holdInput s) rfl]
    rfl

theorem fsmSize_of_withheld {op : PortOp} {s : State} {bs : List Byte} (h : SizeInput s bs)
    (ha : answerAt s 0 ⟨op, s.engine.k, bs⟩ = none) :
    fsmSize op s = waiting ⟨op, s.engine.k, bs⟩ (asked bs s) := by
  rw [fsmSize_of_input h, ha]

theorem fsmSize_of_answer {op : PortOp} {s : State} {bs : List Byte} {r : Response} (h : SizeInput s bs)
    (ha : answerAt s 0 ⟨op, s.engine.k, bs⟩ = some r) : fsmSize op s = sizeAnswer op r (asked bs s) := by
  rw [fsmSize_of_input h, ha]

theorem consider_k (op : PortOp) (len : Nat) (s : State) : (consider op len s).engine.k = s.engine.k := by
  unfold consider
  split <;> rfl

theorem sizeAnswer_next {bs : List Byte} {s : State} (hk : s.engine.k < s.cfg.nAlgo) :
    sizeAnswer .compress (.ok bs) s = nextTag (consider .compress bs.length s) := by
  simp [sizeAnswer, consider, if_pos hk, nextTag]

theorem sizeAnswer_last {op : PortOp} {bs : List Byte} {s : State}
    (hk : op = .compress → s.cfg.nAlgo ≤ s.engine.k) :
    sizeAnswer op (.ok bs) s = toPick (consider op bs.length s) := by
  cases op
  · simp [sizeAnswer, consider, if_neg (hk rfl).not_gt, toPick]
  · simp [sizeAnswer, consider, toPick]

/-! ### PICK, EMIT and COPY -/

theorem fsmPick_of_short {s : State} (h : s.dstCap.toNat < s.engine.bestLen.getD 0) :
    fsmPick s = toError .capacity s := if_pos h

theorem fsmPick_of_fits {s : State} (h : s.engine.bestLen.getD 0 ≤ s.dstCap.toNat) :
    fsmPick s = toEmit s := if_neg h.not_gt

theorem storeOutput_of_admitted {bs : List Byte} {s : State} (h : refusedIn s.cfg s.engine.extent = []) :
    storeOutput bs s = toCommit (stored bs s) := by
  simp only [storeOutput, h, stored]

theorem storeOutput_of_refused {bs : List Byte} {s : State} (h : refusedIn s.cfg s.engine.extent ≠ []) :
    storeOutput bs s = toError (busWriteCause s (refusedIn s.cfg s.engine.extent)) s := by
  unfold storeOutput
  split
  next h0 => exact absurd h0 h
  next h0 => rw [h0]

/-- The repeated answer fails or has another length. -/
def Differs (r : Response) (s : State) : Prop := ∀ bs, r = .ok bs → s.engine.bestLen ≠ some bs.length

theorem emitAnswer_of_differs {r : Response} {s : State} (h : Differs r s) :
    emitAnswer r s = toError (.nondeterministic s.engine.bestK) s := by
  cases r with
  | fail => rfl
  | ok bs => exact if_neg (h bs rfl)

theorem emitAnswer_of_same {bs : List Byte} {s : State} (h : s.engine.bestLen = some bs.length) :
    emitAnswer (.ok bs) s = storeOutput bs s := if_pos h

/-- The request of an EMIT. -/
def emitRequest (op : PortOp) (s : State) : Request := ⟨op, s.engine.bestK, heldInput s⟩

theorem fsmEmit_of_withheld {op : PortOp} {s : State} (ha : answerAt s 0 (emitRequest op s) = none) :
    fsmEmit op s = waiting (emitRequest op s) (served s) := by
  rw [emitRequest] at ha
  rw [fsmEmit_eq, ha]
  rfl

theorem fsmEmit_of_answer {op : PortOp} {s : State} {r : Response}
    (ha : answerAt s 0 (emitRequest op s) = some r) : fsmEmit op s = emitAnswer r (served s) := by
  rw [emitRequest] at ha
  rw [fsmEmit_eq, ha]
  rfl

theorem fsmCopy_of_refused {s : State} (h : refusedIn s.cfg [srcBuf s] ≠ []) :
    fsmCopy s = toError (busReadCause s (refusedIn s.cfg [srcBuf s])) s := by
  unfold fsmCopy
  split
  next h0 => rw [h0]
  next h0 => exact absurd h0 h

theorem fsmCopy_of_admitted {s : State} (h : refusedIn s.cfg [srcBuf s] = []) :
    fsmCopy s = storeOutput (ccInput s) (copying s) := by
  simp only [fsmCopy, h, copying]

/-! ### All rows -/

/-- The rows of R162, each with the state it leads to. -/
inductive Row (op : PortOp) (s : State) : State → Prop
  | start (hf : s.engine.fsm = .idle) : Row op s { s with engine := { s.engine with fsm := .check } }
  | invalid (hf : s.engine.fsm = .check) {e : Cause} (h : firstFailure (ccChecks op s) = some e) :
      Row op s (toError e s)
  | empty (hf : s.engine.fsm = .check) (h : firstFailure (ccChecks op s) = none) (hc : ¬Copies op s)
      (hl : s.srcLen.toNat = 0) : Row op s (toCommit (setBest (emptyTag op s) 0 s))
  | size (hf : s.engine.fsm = .check) (h : firstFailure (ccChecks op s) = none) (hc : ¬Copies op s)
      (hl : s.srcLen.toNat ≠ 0) : Row op s (toSize (firstTag op s) s)
  | copy (hf : s.engine.fsm = .check) (h : firstFailure (ccChecks op s) = none) (hc : Copies op s) :
      Row op s (toCopy s)
  | sourceRefused (hf : s.engine.fsm = .size ∨ s.engine.fsm = .copy)
      (h : refusedIn s.cfg [srcBuf s] ≠ []) :
      Row op s (toError (busReadCause s (refusedIn s.cfg [srcBuf s])) s)
  | sizeWaits (hf : s.engine.fsm = .size) {bs : List Byte} (hin : SizeInput s bs)
      (ha : answerAt s 0 ⟨op, s.engine.k, bs⟩ = none) :
      Row op s (waiting ⟨op, s.engine.k, bs⟩ (asked bs s))
  | sizeFails (hf : s.engine.fsm = .size) {bs : List Byte} (hin : SizeInput s bs)
      (ha : answerAt s 0 ⟨op, s.engine.k, bs⟩ = some .fail) :
      Row op s (toError (sizeFailure op s.engine.k) (asked bs s))
  | sizeNext (hf : s.engine.fsm = .size) {bs r : List Byte} (hin : SizeInput s bs)
      (ha : answerAt s 0 ⟨op, s.engine.k, bs⟩ = some (.ok r)) (hop : op = .compress)
      (hk : s.engine.k < s.cfg.nAlgo) : Row op s (nextTag (consider op r.length (asked bs s)))
  | sizeLast (hf : s.engine.fsm = .size) {bs r : List Byte} (hin : SizeInput s bs)
      (ha : answerAt s 0 ⟨op, s.engine.k, bs⟩ = some (.ok r))
      (hk : op = .compress → s.cfg.nAlgo ≤ s.engine.k) :
      Row op s (toPick (consider op r.length (asked bs s)))
  | short (hf : s.engine.fsm = .pick) (h : s.dstCap.toNat < s.engine.bestLen.getD 0) :
      Row op s (toError .capacity s)
  | emit (hf : s.engine.fsm = .pick) (h : s.engine.bestLen.getD 0 ≤ s.dstCap.toNat) :
      Row op s (toEmit s)
  | emitWaits (hf : s.engine.fsm = .emit) (ha : answerAt s 0 (emitRequest op s) = none) :
      Row op s (waiting (emitRequest op s) (served s))
  | emitDiffers (hf : s.engine.fsm = .emit) {r : Response}
      (ha : answerAt s 0 (emitRequest op s) = some r) (hr : Differs r s) :
      Row op s (toError (.nondeterministic s.engine.bestK) (served s))
  | emitRefused (hf : s.engine.fsm = .emit) {bs : List Byte}
      (ha : answerAt s 0 (emitRequest op s) = some (.ok bs)) (hr : s.engine.bestLen = some bs.length)
      (h : refusedIn s.cfg s.engine.extent ≠ []) :
      Row op s (toError (busWriteCause s (refusedIn s.cfg s.engine.extent)) (served s))
  | emitStored (hf : s.engine.fsm = .emit) {bs : List Byte}
      (ha : answerAt s 0 (emitRequest op s) = some (.ok bs)) (hr : s.engine.bestLen = some bs.length)
      (h : refusedIn s.cfg s.engine.extent = []) : Row op s (toCommit (stored bs (served s)))
  | copyRefused (hf : s.engine.fsm = .copy) (hsrc : refusedIn s.cfg [srcBuf s] = [])
      (h : refusedIn s.cfg (copying s).engine.extent ≠ []) :
      Row op s (toError (busWriteCause s (refusedIn s.cfg (copying s).engine.extent)) (copying s))
  | copyStored (hf : s.engine.fsm = .copy) (hsrc : refusedIn s.cfg [srcBuf s] = [])
      (h : refusedIn s.cfg (copying s).engine.extent = []) :
      Row op s (toCommit (stored (ccInput s) (copying s)))
  | commit (hf : s.engine.fsm = .commit) :
      Row op s (conclude (ccNamed s) s.engine.extent (ccCommit op s) s)
  | error (hf : s.engine.fsm = .error) {e : Cause} (hc : s.engine.cause = some e) :
      Row op s (fsmError s)
  | stuck (hf : s.engine.fsm = .error) (hc : s.engine.cause = none) : Row op s s

theorem fsmCheck_row (op : PortOp) {s : State} (hf : s.engine.fsm = .check) : Row op s (fsmCheck op s) := by
  rcases h : firstFailure (ccChecks op s) with _ | e
  · by_cases hc : Copies op s
    · rw [fsmCheck_of_copies h hc]
      exact .copy hf h hc
    · by_cases hl : s.srcLen.toNat = 0
      · rw [fsmCheck_of_empty h hc hl]
        exact .empty hf h hc hl
      · rw [fsmCheck_of_input h hc hl]
        exact .size hf h hc hl
  · rw [fsmCheck_of_failure h]
    exact .invalid hf h

theorem sizeAnswer_row {op : PortOp} {s : State} (hf : s.engine.fsm = .size) {bs : List Byte}
    (hin : SizeInput s bs) {r : Response} (ha : answerAt s 0 ⟨op, s.engine.k, bs⟩ = some r) :
    Row op s (sizeAnswer op r (asked bs s)) := by
  cases r with
  | fail => exact .sizeFails hf hin ha
  | ok bs' =>
    by_cases hk : op = .compress ∧ s.engine.k < s.cfg.nAlgo
    · obtain ⟨rfl, hk⟩ := hk
      rw [sizeAnswer_next (s := asked bs s) hk]
      exact .sizeNext hf hin ha rfl hk
    · have hk' : op = .compress → s.cfg.nAlgo ≤ s.engine.k := fun h => not_lt.mp fun h' => hk ⟨h, h'⟩
      rw [sizeAnswer_last (s := asked bs s) hk']
      exact .sizeLast hf hin ha hk'

theorem fsmSize_row (op : PortOp) {s : State} (hf : s.engine.fsm = .size) : Row op s (fsmSize op s) := by
  by_cases hin : ∃ bs, SizeInput s bs
  · obtain ⟨bs, hin⟩ := hin
    rcases ha : answerAt s 0 ⟨op, s.engine.k, bs⟩ with _ | r
    · rw [fsmSize_of_withheld hin ha]
      exact .sizeWaits hf hin ha
    · rw [fsmSize_of_answer hin ha]
      exact sizeAnswer_row hf hin ha
  · rcases hi : s.engine.input with _ | bs
    · have hr : refusedIn s.cfg [srcBuf s] ≠ [] := fun h => hin ⟨_, .inr ⟨hi, h, rfl⟩⟩
      rw [fsmSize_of_refused hi hr]
      exact .sourceRefused (.inl hf) hr
    · exact absurd ⟨bs, .inl hi⟩ hin

theorem fsmPick_row (op : PortOp) {s : State} (hf : s.engine.fsm = .pick) : Row op s (fsmPick s) := by
  by_cases h : s.dstCap.toNat < s.engine.bestLen.getD 0
  · rw [fsmPick_of_short h]
    exact .short hf h
  · rw [fsmPick_of_fits (not_lt.mp h)]
    exact .emit hf (not_lt.mp h)

theorem emitAnswer_row {op : PortOp} {s : State} (hf : s.engine.fsm = .emit) {r : Response}
    (ha : answerAt s 0 (emitRequest op s) = some r) : Row op s (emitAnswer r (served s)) := by
  by_cases hr : Differs r s
  · rw [emitAnswer_of_differs (s := served s) hr]
    exact .emitDiffers hf ha hr
  · simp only [Differs, not_forall, not_not] at hr
    obtain ⟨bs, rfl, hr⟩ := hr
    rw [emitAnswer_of_same (s := served s) hr]
    by_cases h : refusedIn s.cfg s.engine.extent = []
    · rw [storeOutput_of_admitted (s := served s) h]
      exact .emitStored hf ha hr h
    · rw [storeOutput_of_refused (s := served s) h]
      exact .emitRefused hf ha hr h

theorem fsmEmit_row (op : PortOp) {s : State} (hf : s.engine.fsm = .emit) : Row op s (fsmEmit op s) := by
  rcases ha : answerAt s 0 (emitRequest op s) with _ | r
  · rw [fsmEmit_of_withheld ha]
    exact .emitWaits hf ha
  · rw [fsmEmit_of_answer ha]
    exact emitAnswer_row hf ha

theorem fsmCopy_row (op : PortOp) {s : State} (hf : s.engine.fsm = .copy) : Row op s (fsmCopy s) := by
  by_cases hsrc : refusedIn s.cfg [srcBuf s] = []
  · rw [fsmCopy_of_admitted hsrc]
    by_cases h : refusedIn s.cfg (copying s).engine.extent = []
    · rw [storeOutput_of_admitted (s := copying s) h]
      exact .copyStored hf hsrc h
    · rw [storeOutput_of_refused (s := copying s) h]
      exact .copyRefused hf hsrc h
  · rw [fsmCopy_of_refused hsrc]
    exact .sourceRefused (.inr hf) hsrc

/-- R162: every move without an outstanding request takes one of the rows. -/
theorem fsmMove_row (op : PortOp) {s : State} (h : s.engine.request = none) : Row op s (fsmMove op s) := by
  rw [fsmMove, h, Option.isSome_none, if_neg (by decide)]
  split
  next hf => exact .start hf
  next hf => exact fsmCheck_row op hf
  next hf => exact fsmSize_row op hf
  next hf => exact fsmPick_row op hf
  next hf => exact fsmEmit_row op hf
  next hf => exact fsmCopy_row op hf
  next hf => exact .commit hf
  next hf =>
    rcases hc : s.engine.cause with _ | e
    · have hstay : fsmError s = s := by simp only [fsmError, hc]
      rw [hstay]
      exact .stuck hf hc
    · exact .error hf hc

/-- R166: the engine waits while a request is outstanding. -/
theorem fsmMove_of_waiting {op : PortOp} {s : State} (h : s.engine.request.isSome = true) :
    fsmMove op s = s := if_pos h

end Sys2Proof.Proofs
end

section
/-!
PROOF. The invariant of the machine (10_state.md R38; 60_exceptions.md R180 to R184). Between acceptance and
completion the error record is clear and the engine keeps its command, whatever a move does with its hidden
state; every completion writes an error record that the invariant allows.
-/

namespace Sys2Proof.Proofs

open Sys2Proof Sys2Proof.Machine Sys2Proof.Safety Sys2Proof.Laws

/-! ### A move that goes on -/

/-- The command word of a mode. -/
def commandOf : Mode → Option Word
  | .idle => none
  | .running c _ => some c

@[simp] theorem commandOf_atPhase (ph : Phase) (m : Mode) : commandOf (m.atPhase ph) = commandOf m := by
  cases m <;> rfl

/-- The command goes on: only the hidden state, the service's script and stored bytes change. -/
structure GoesOn (s t : State) : Prop where
  frame : t = { s with engine := t.engine, service := t.service, mem := t.mem }
  raced : t.engine.raced = s.engine.raced
  command : commandOf t.engine.mode = commandOf s.engine.mode
  wf : Memory.wf s.mem = true → Memory.wf t.mem = true

theorem GoesOn.refl (s : State) : GoesOn s s := ⟨rfl, rfl, rfl, id⟩

theorem GoesOn.trans {s t u : State} (h : GoesOn s t) (h' : GoesOn t u) : GoesOn s u := by
  refine ⟨?_, h'.raced.trans h.raced, h'.command.trans h.command, h'.wf ∘ h.wf⟩
  calc u = { t with engine := u.engine, service := u.service, mem := u.mem } := h'.frame
    _ = { s with engine := u.engine, service := u.service, mem := u.mem } := by rw [h.frame]

theorem goesOn_toError (e : Cause) (s : State) : GoesOn s (toError e s) := ⟨rfl, rfl, rfl, id⟩

theorem goesOn_setBest (k len : Nat) (s : State) : GoesOn s (setBest k len s) := ⟨rfl, rfl, rfl, id⟩

theorem goesOn_toCommit (s : State) : GoesOn s (toCommit s) := ⟨rfl, rfl, commandOf_atPhase _ _, id⟩

theorem goesOn_toSize (k : Nat) (s : State) : GoesOn s (toSize k s) := ⟨rfl, rfl, commandOf_atPhase _ _, id⟩

theorem goesOn_toCopy (s : State) : GoesOn s (toCopy s) := ⟨rfl, rfl, commandOf_atPhase _ _, id⟩

theorem goesOn_asked (bs : List Byte) (s : State) : GoesOn s (asked bs s) := ⟨rfl, rfl, rfl, id⟩

theorem goesOn_waiting (q : Request) (s : State) : GoesOn s (waiting q s) := ⟨rfl, rfl, rfl, id⟩

theorem goesOn_consider (op : PortOp) (len : Nat) (s : State) : GoesOn s (consider op len s) := by
  unfold consider
  split
  · exact goesOn_setBest _ _ s
  · exact .refl s

theorem goesOn_nextTag (s : State) : GoesOn s (nextTag s) := ⟨rfl, rfl, rfl, id⟩

theorem goesOn_toPick (s : State) : GoesOn s (toPick s) := ⟨rfl, rfl, rfl, id⟩

theorem goesOn_toEmit (s : State) : GoesOn s (toEmit s) := ⟨rfl, rfl, commandOf_atPhase _ _, id⟩

theorem goesOn_served (s : State) : GoesOn s (served s) := ⟨rfl, rfl, rfl, id⟩

theorem goesOn_copying (s : State) : GoesOn s (copying s) := ⟨rfl, rfl, commandOf_atPhase _ _, id⟩

theorem goesOn_stored (bs : List Byte) (s : State) : GoesOn s (stored bs s) :=
  ⟨rfl, rfl, rfl, writeBytes_wf _ bs⟩

/-- The FSM completes the command: in COMMIT, or in ERROR with its cause. -/
def Ends (op : PortOp) (s t : State) : Prop :=
  (s.engine.fsm = .commit ∧ t = conclude (ccNamed s) s.engine.extent (ccCommit op s) s) ∨
    ∃ e, s.engine.fsm = .error ∧ s.engine.cause = some e ∧ t = fsmError s

/-- Every row but the two completions goes on. -/
theorem Row.goesOn_or_ends {op : PortOp} {s t : State} (h : Row op s t) : GoesOn s t ∨ Ends op s t := by
  cases h with
  | start => exact .inl ⟨rfl, rfl, rfl, id⟩
  | invalid => exact .inl (goesOn_toError _ s)
  | empty => exact .inl ((goesOn_setBest _ _ s).trans (goesOn_toCommit _))
  | size => exact .inl (goesOn_toSize _ s)
  | copy => exact .inl (goesOn_toCopy s)
  | sourceRefused => exact .inl (goesOn_toError _ s)
  | sizeWaits => exact .inl ((goesOn_asked _ s).trans (goesOn_waiting _ _))
  | sizeFails => exact .inl ((goesOn_asked _ s).trans (goesOn_toError _ _))
  | sizeNext => exact .inl (((goesOn_asked _ s).trans (goesOn_consider _ _ _)).trans (goesOn_nextTag _))
  | sizeLast => exact .inl (((goesOn_asked _ s).trans (goesOn_consider _ _ _)).trans (goesOn_toPick _))
  | short => exact .inl (goesOn_toError _ s)
  | emit => exact .inl (goesOn_toEmit s)
  | emitWaits => exact .inl ((goesOn_served s).trans (goesOn_waiting _ _))
  | emitDiffers => exact .inl ((goesOn_served s).trans (goesOn_toError _ _))
  | emitRefused => exact .inl ((goesOn_served s).trans (goesOn_toError _ _))
  | emitStored => exact .inl (((goesOn_served s).trans (goesOn_stored _ _)).trans (goesOn_toCommit _))
  | copyRefused => exact .inl ((goesOn_copying s).trans (goesOn_toError _ _))
  | copyStored => exact .inl (((goesOn_copying s).trans (goesOn_stored _ _)).trans (goesOn_toCommit _))
  | commit hf => exact .inr (.inl ⟨hf, rfl⟩)
  | error hf hc => exact .inr (.inr ⟨_, hf, hc, rfl⟩)
  | stuck => exact .inl (.refl s)

theorem goesOn_sizeAnswer (op : PortOp) (r : Response) (s : State) : GoesOn s (sizeAnswer op r s) := by
  cases r with
  | fail => exact goesOn_toError _ s
  | ok bs =>
    by_cases hk : op = .compress ∧ s.engine.k < s.cfg.nAlgo
    · obtain ⟨rfl, hk⟩ := hk
      rw [sizeAnswer_next hk]
      exact (goesOn_consider _ _ s).trans (goesOn_nextTag _)
    · rw [sizeAnswer_last fun h => not_lt.mp fun h' => hk ⟨h, h'⟩]
      exact (goesOn_consider _ _ s).trans (goesOn_toPick _)

theorem goesOn_storeOutput (bs : List Byte) (s : State) : GoesOn s (storeOutput bs s) := by
  by_cases h : refusedIn s.cfg s.engine.extent = []
  · rw [storeOutput_of_admitted h]
    exact (goesOn_stored bs s).trans (goesOn_toCommit _)
  · rw [storeOutput_of_refused h]
    exact goesOn_toError _ s

theorem goesOn_emitAnswer (r : Response) (s : State) : GoesOn s (emitAnswer r s) := by
  by_cases hr : Differs r s
  · rw [emitAnswer_of_differs hr]
    exact goesOn_toError _ s
  · simp only [Differs, not_forall, not_not] at hr
    obtain ⟨bs, rfl, hr⟩ := hr
    rw [emitAnswer_of_same hr]
    exact goesOn_storeOutput bs s

/-- The outstanding request has been answered. -/
def answered (s : State) : State := { s with engine := { s.engine with request := none } }

/-- What a response can do: it is discarded, or the request is answered and SIZE or EMIT go on with it. -/
theorem serviceAnswer_cases (n : Nat) (a : Answer) (s : State) :
    serviceAnswer n a s = s ∨
      ∃ q r, s.engine.request = some q ∧ resolve a q = some r ∧
        (serviceAnswer n a s = sizeAnswer q.op r (answered s) ∨
          serviceAnswer n a s = emitAnswer r (answered s) ∨ serviceAnswer n a s = answered s) := by
  by_cases hn : n = s.resets
  · subst hn
    rw [serviceAnswer_current]
    rcases hq : s.engine.request with _ | q
    · exact .inl (by simp [takeAnswer, hq])
    · rcases hr : resolve a q with _ | r
      · exact .inl (by simp [takeAnswer, hq, hr])
      · refine .inr ⟨q, r, rfl, hr, ?_⟩
        simp only [takeAnswer, hq, hr]
        split
        next => exact .inl rfl
        next => exact .inr (.inl rfl)
        all_goals exact .inr (.inr rfl)
  · exact .inl (serviceAnswer_of_abandoned hn)

theorem goesOn_serviceAnswer (n : Nat) (a : Answer) (s : State) : GoesOn s (serviceAnswer n a s) := by
  have hanswered : GoesOn s (answered s) := ⟨rfl, rfl, rfl, id⟩
  obtain h | ⟨q, r, -, -, h | h | h⟩ := serviceAnswer_cases n a s <;> rw [h]
  · exact .refl s
  · exact hanswered.trans (goesOn_sizeAnswer _ _ _)
  · exact hanswered.trans (goesOn_emitAnswer _ _)
  · exact hanswered

/-- Induction over a run of the FSM: `P` holds while it goes on, `Q` once it has completed. -/
theorem fsmRun_induction {op : PortOp} {P Q : State → Prop}
    (hmove : ∀ u, P u → u.busy = true → u.engine.request = none → P (fsmMove op u) ∨ Q (fsmMove op u))
    (hidle : ∀ u, Q u → u.busy = false) (n : Nat) {u : State} (hu : P u) :
    P (fsmRun op n u) ∨ Q (fsmRun op n u) := by
  have hdone : ∀ n t, t.busy = false → fsmRun op n t = t := by
    intro n t ht
    cases n with
    | zero => rfl
    | succ n => simp [fsmRun, ht]
  induction n generalizing u with
  | zero => exact .inl hu
  | succ n ih =>
    rw [fsmRun]
    split
    · exact .inl hu
    next hgo =>
      simp only [Bool.or_eq_true, Bool.not_eq_true', Option.isSome_iff_ne_none, not_or, not_not,
        Bool.not_eq_false] at hgo
      obtain h | h := hmove u hu hgo.1 hgo.2
      · exact ih h
      · rw [hdone n _ (hidle _ h)]
        exact .inr h

/-! ### The error record -/

theorem address_code {e : Cause} (h : e.address ≠ none) : e.kind.code = 5 := by
  cases e <;> first | rfl | exact absurd rfl h

theorem sub_ne_zero (e : Cause) : e.sub ≠ 0 := by
  have htag : ∀ b : BitVec 8, b ≠ 0 → ∀ k, subWithTag b k ≠ 0 := by
    intro b hb k h
    refine hb (BitVec.eq_of_toNat_eq ?_)
    have hsum : b.toNat * 2 ^ 8 + (BitVec.ofNat 8 k).toNat = 0 := by
      rw [← toNat_append_eq_add]
      exact congrArg BitVec.toNat h
    have hz : (0 : BitVec 8).toNat = 0 := rfl
    omega
  cases e
  case compressFail k | decompressFail k | nondeterministic k => exact htag _ (by decide) k
  case busRead a => exact (by decide : (0x0040 : BitVec 16) ≠ 0)
  case busWrite a => exact (by decide : (0x0041 : BitVec 16) ≠ 0)
  all_goals decide

theorem code_le_five (k : ErrKind) : k.code.toNat ≤ 5 := by cases k <;> decide

/-- Between acceptance and completion: legal parameters, canonical memory and a clear error record. -/
structure Clear (s : State) : Prop where
  mem : Memory.wf s.mem = true
  cfg : s.cfg.wellFormed = true
  err : s.err = 0
  errSub : s.errSub = 0
  errAddr : s.errAddr = 0

theorem engineOk_idle {s : State} (h : s.engine = Engine.idle) : EngineOk s := by
  rw [EngineOk, h]
  rfl

theorem inv_fail {s : State} (h : Clear s) (e : Cause) : Inv (s.fail e) := by
  refine ⟨h.mem, h.cfg, code_le_five _, ?_, fun ha => ?_, engineOk_idle rfl⟩
  · exact iff_of_false (code_ne_zero _) (sub_ne_zero e)
  · rw [fail_errAddr, h.errAddr] at ha
    refine address_code fun hnone => ha ?_
    rw [hnone]
    rfl

theorem clear_loseExtent {s : State} (h : Clear s) (x : List Buf) : Clear (s.loseExtent x) :=
  ⟨scribble_wf _ x h.mem, h.cfg, h.err, h.errSub, h.errAddr⟩

theorem inv_failLosing {s : State} (h : Clear s) (x : List Buf) (e : Cause) : Inv (s.failLosing x e) :=
  inv_fail (clear_loseExtent h x) e

theorem inv_succeed {s : State} (h : Clear s) (c : Commit) : Inv (s.succeed c) :=
  ⟨h.mem, h.cfg, Nat.zero_le 5, iff_of_true rfl h.errSub, fun ha => absurd h.errAddr ha, engineOk_idle rfl⟩

theorem inv_conclude {s : State} (h : Clear s) (named x : List Buf) (c : Commit) :
    Inv (conclude named x c s) := by
  unfold conclude
  split
  · exact inv_succeed (clear_loseExtent h x) _
  · exact inv_succeed h c

theorem inv_runRule {s : State} (h : Clear s) (r : Rule) : Inv (runRule r s) := by
  obtain ⟨e, -, ht⟩ | ⟨job, -, -, ⟨-, ht⟩ | ⟨-, ht⟩⟩ := runRule_cases r s <;> rw [ht]
  · exact inv_fail h e
  · exact inv_failLosing h _ _
  · exact inv_conclude (s := { s with mem := storePieces s.mem job.out })
      ⟨storePieces_wf _ h.mem, h.cfg, h.err, h.errSub, h.errAddr⟩ _ _ _

/-! ### A running engine -/

/-- The invariant of a state that runs a legal command. -/
structure Running (s : State) (c : Word) : Prop where
  inv : Inv s
  command : commandOf s.engine.mode = some c
  legal : ∃ i, decode c = .ok i

theorem commandOf_eq_some {m : Mode} {c : Word} (h : commandOf m = some c) : ∃ ph, m = .running c ph := by
  cases m with
  | idle => cases h
  | running c' ph => exact ⟨ph, by rw [Option.some.inj h]⟩

theorem engineOk_running_iff {s : State} {c : Word} {ph : Phase} (h : s.engine.mode = .running c ph) :
    EngineOk s ↔ s.cmd = c ∧ s.done = false ∧ s.err = 0 ∧ s.errAddr = 0 ∧
      (ph ≠ .validate ∨ s.engine.request ≠ none → ∃ i, decode c = .ok i) := by
  rw [EngineOk, h]

theorem clear_of_inv {s : State} {c : Word} {ph : Phase} (h : Inv s) (hm : s.engine.mode = .running c ph) :
    Clear s := by
  obtain ⟨hwf, hcfg, -, hiff, -, hengine⟩ := h
  obtain ⟨-, -, herr, haddr, -⟩ := (engineOk_running_iff hm).mp hengine
  exact ⟨hwf, hcfg, herr, hiff.mp herr, haddr⟩

theorem Running.clear {s : State} {c : Word} (h : Running s c) : Clear s := by
  obtain ⟨ph, hm⟩ := commandOf_eq_some h.command
  exact clear_of_inv h.inv hm

/-- A move that goes on keeps the invariant of a running legal command. -/
theorem Running.of_goesOn {s t : State} {c : Word} (h : Running s c) (hgo : GoesOn s t) : Running t c := by
  have hclear := h.clear
  obtain ⟨ph, hm⟩ := commandOf_eq_some h.command
  obtain ⟨⟨-, -, -, -, -, hengine⟩, hcommand, hlegal⟩ := h
  obtain ⟨hcmd, hdone, -, -, -⟩ := (engineOk_running_iff hm).mp hengine
  obtain ⟨ph', hm'⟩ := commandOf_eq_some (hgo.command.trans hcommand)
  have hwf := hgo.wf hclear.mem
  refine ⟨?_, hgo.command.trans hcommand, hlegal⟩
  have hfields : t.cfg = s.cfg ∧ t.err = s.err ∧ t.errSub = s.errSub ∧ t.errAddr = s.errAddr ∧
      t.cmd = s.cmd ∧ t.done = s.done := by
    rw [hgo.frame]
    exact ⟨rfl, rfl, rfl, rfl, rfl, rfl⟩
  obtain ⟨e1, e2, e3, e4, e5, e6⟩ := hfields
  refine ⟨hwf, e1 ▸ hclear.cfg, ?_, ?_, ?_, (engineOk_running_iff hm').mpr ?_⟩
  · rw [e2, hclear.err]
    decide
  · rw [e2, e3, hclear.err, hclear.errSub]
    exact iff_of_true rfl rfl
  · rw [e4, hclear.errAddr]
    exact fun ha => absurd rfl ha
  · exact ⟨e5.trans hcmd, e6.trans hdone, e2.trans hclear.err, e4.trans hclear.errAddr, fun _ => hlegal⟩

theorem Running.inv_of_goesOn {s t : State} {c : Word} (h : Running s c) (hgo : GoesOn s t) : Inv t :=
  (h.of_goesOn hgo).inv

theorem inv_fsmError {s : State} (h : Clear s) {e : Cause} (hc : s.engine.cause = some e) :
    Inv (fsmError s) := by
  obtain ⟨-, ht⟩ | ⟨-, ht⟩ := fsmError_cases hc <;> rw [ht]
  · exact inv_fail h e
  · exact inv_failLosing h _ e

theorem inv_of_ends {op : PortOp} {s t : State} (h : Clear s) (hends : Ends op s t) : Inv t := by
  obtain ⟨-, rfl⟩ | ⟨e, -, hc, rfl⟩ := hends
  · exact inv_conclude h _ _ _
  · exact inv_fsmError h hc

theorem idle_of_ends {op : PortOp} {s t : State} (hends : Ends op s t) : t.busy = false := by
  obtain ⟨-, rfl⟩ | ⟨e, -, hc, rfl⟩ := hends
  · unfold conclude
    split <;> rfl
  · obtain ⟨-, ht⟩ | ⟨-, ht⟩ := fsmError_cases hc <;> rw [ht] <;> rfl

theorem Running.move {op : PortOp} {s : State} {c : Word} (h : Running s c)
    (hq : s.engine.request = none) :
    Running (fsmMove op s) c ∨ (Inv (fsmMove op s) ∧ (fsmMove op s).busy = false) := by
  obtain hgo | hends := (fsmMove_row op hq).goesOn_or_ends
  · exact .inl (h.of_goesOn hgo)
  · exact .inr ⟨inv_of_ends h.clear hends, idle_of_ends hends⟩

theorem inv_fsmMove {op : PortOp} {s : State} {c : Word} (h : Running s c) : Inv (fsmMove op s) := by
  rcases hq : s.engine.request with _ | q
  · obtain h' | ⟨h', -⟩ := h.move (op := op) hq
    · exact h'.inv
    · exact h'
  · rw [fsmMove_of_waiting (by simp [hq])]
    exact h.inv

theorem running_enterCheck {s : State} {c : Word} (h : Inv s) (hm : s.engine.mode = .running c .validate)
    (hlegal : ∃ i, decode c = .ok i) : Running (enterCheck s) c := by
  have hm' : (enterCheck s).engine.mode = .running c .validate := by simp only [enterCheck, hm]
  have hclear := clear_of_inv h hm
  obtain ⟨hwf, hcfg, hle, hiff, haddr, hengine⟩ := h
  obtain ⟨hcmd, hdone, -, -, -⟩ := (engineOk_running_iff hm).mp hengine
  refine ⟨⟨hwf, hcfg, hle, hiff, haddr, (engineOk_running_iff hm').mpr ?_⟩, by rw [hm']; rfl, hlegal⟩
  exact ⟨hcmd, hdone, hclear.err, hclear.errAddr, fun _ => hlegal⟩

theorem inv_runSelector {op : PortOp} {s : State} {c : Word} (h : Inv s)
    (hm : s.engine.mode = .running c .validate) (hlegal : ∃ i, decode c = .ok i) :
    Inv (runSelector op s) := by
  obtain h' | h' := fsmRun_induction (op := op) (P := fun u => Running u c)
    (Q := fun t => Inv t ∧ t.busy = false) (fun u hu _ hq => hu.move hq) (fun _ ht => ht.2)
    (s.cfg.nAlgo + 4) (running_enterCheck h hm hlegal)
  · exact h'.inv
  · exact h'.1

theorem inv_exec {i : Instr} {s t : State} {c : Word} (h : Inv s)
    (hm : s.engine.mode = .running c .validate) (hlegal : ∃ i, decode c = .ok i)
    (hexec : exec i s = .next t) : Inv t := by
  rw [exec_eq_unit] at hexec
  obtain rfl := Host.Outcome.next.inj hexec
  cases unitOf i with
  | rule r => exact inv_runRule (clear_of_inv h hm) r
  | selector op => exact inv_runSelector h hm hlegal

/-! ### One phase of a rule -/

theorem inv_ruleMove {s : State} {c : Word} (h : Running s c) (r : Rule) (ph : Phase) :
    Inv (ruleMove r ph s) := by
  have hclear := h.clear
  cases ph with
  | validate =>
    simp only [ruleMove]
    split
    · exact inv_fail hclear _
    · exact h.inv_of_goesOn ⟨rfl, rfl, commandOf_atPhase _ _, id⟩
  | read =>
    simp only [ruleMove]
    split
    · exact inv_fail hclear _
    · exact h.inv_of_goesOn ⟨rfl, rfl, commandOf_atPhase _ _, id⟩
  | write =>
    simp only [ruleMove]
    split
    · exact h.inv_of_goesOn ⟨rfl, rfl, commandOf_atPhase _ _, storePieces_wf _⟩
    · exact inv_failLosing hclear _ _
  | commit => exact inv_conclude hclear _ _ _

theorem inv_engineMove {s : State} (h : Inv s) : Inv (engineMove s) := by
  rcases hm : s.engine.mode with _ | ⟨c, ph⟩
  · simp only [engineMove, hm]
    exact h
  · rcases hd : decode c with e | i
    · simp only [engineMove, hm, hd]
      exact inv_fail (clear_of_inv h hm) _
    · have hrun : Running s c := ⟨h, by rw [hm]; rfl, ⟨i, hd⟩⟩
      simp only [engineMove, hm, hd]
      cases unitOf i with
      | rule r => exact inv_ruleMove hrun r ph
      | selector op => exact inv_fsmMove hrun

/-! ### Moves of the other agents -/

theorem inv_resetMachine {s : State} (h : Inv s) : Inv (resetMachine s) := by
  have hmem : Memory.wf (abortCommand s).mem = true := by
    unfold abortCommand
    split <;> first | exact h.1 | exact scribble_wf _ _ h.1
  exact ⟨hmem, h.2.1, Nat.zero_le 5, iff_of_true rfl rfl, fun ha => absurd rfl ha, engineOk_idle rfl⟩

theorem inv_accept {s : State} (h : Inv s) (c : Word) : Inv (accept c s) := by
  refine ⟨h.1, h.2.1, Nat.zero_le 5, iff_of_true rfl rfl, fun ha => absurd rfl ha,
    (engineOk_running_iff (c := c) (ph := .validate) rfl).mpr ⟨rfl, rfl, rfl, rfl, fun hp => ?_⟩⟩
  exact absurd hp (by simp)

theorem inv_acknowledge {s : State} (h : Inv s) (v : Word) : Inv (acknowledge v s) := by
  obtain ⟨hwf, hcfg, hle, hiff, haddr, hengine⟩ := h
  refine ⟨hwf, hcfg, hle, hiff, haddr, ?_⟩
  rcases hm : s.engine.mode with _ | ⟨c, ph⟩
  · rw [EngineOk, hm] at hengine
    exact engineOk_idle hengine
  · obtain ⟨hcmd, hdone, hrest⟩ := (engineOk_running_iff hm).mp hengine
    refine (engineOk_running_iff (s := acknowledge v s) hm).mpr ⟨hcmd, ?_, hrest⟩
    rw [acknowledge_done, hdone, Bool.false_and]

theorem inv_writeIdle {s : State} (h : Inv s) (r : Reg) (v : Word) : Inv (writeIdle r v s) := by
  cases r
  case cmd => exact inv_accept h v
  all_goals exact h

theorem inv_writeCtrl {s : State} (h : Inv s) (v : Word) : Inv (writeCtrl v s) := by
  unfold writeCtrl
  split
  · exact inv_resetMachine h
  · exact h

theorem inv_writeOffset {s : State} (h : Inv s) (off : Nat) (v : Word) : Inv (writeOffset off v s) := by
  unfold writeOffset
  split
  · exact inv_writeCtrl h v
  · exact inv_acknowledge h v
  · split
    · exact h
    · exact inv_writeIdle h _ v
  · split <;> exact h

theorem inv_hostWrite {s : State} (h : Inv s) (addr size : Nat) (v : Word) :
    Inv (hostWrite addr size v s) := by
  unfold hostWrite
  split
  · exact h
  · exact h
  · exact inv_writeOffset h _ v

theorem inv_hostRead {s : State} (h : Inv s) (addr size : Nat) : Inv (hostRead addr size s) := by
  unfold hostRead
  split <;> exact h

/-- A response goes on with a running command; while IDLE none is outstanding. -/
theorem inv_serviceAnswer {s : State} (h : Inv s) (n : Nat) (a : Answer) : Inv (serviceAnswer n a s) := by
  rcases hq : s.engine.request with _ | q
  · rw [serviceAnswer_of_none hq]
    exact h
  · rcases hm : s.engine.mode with _ | ⟨c, ph⟩
    · have hidle := h.2.2.2.2.2
      rw [EngineOk, hm] at hidle
      rw [hidle] at hq
      cases hq
    · obtain ⟨-, -, -, -, hlegal⟩ := (engineOk_running_iff hm).mp h.2.2.2.2.2
      have hrun : Running s c := ⟨h, by rw [hm]; rfl, hlegal (.inr (by simp [hq]))⟩
      exact (hrun.of_goesOn (goesOn_serviceAnswer n a s)).inv

theorem inv_agentWrite {s : State} (h : Inv s) (addr : Nat) (bs : List Byte) :
    Inv (agentWrite addr bs s) := by
  obtain ⟨hwf, hcfg, hle, hiff, haddr, hengine⟩ := h
  refine ⟨writeBytes_wf addr bs hwf, hcfg, hle, hiff, haddr, ?_⟩
  rcases hm : s.engine.mode with _ | ⟨c, ph⟩
  · rw [EngineOk, hm] at hengine
    refine engineOk_idle ?_
    have hnone : namedNow s = [] := by simp only [namedNow, hm]
    simp only [agentWrite, hnone, List.any_nil, Bool.or_false]
    exact hengine
  · exact (engineOk_running_iff (s := agentWrite addr bs s) hm).mpr ((engineOk_running_iff hm).mp hengine)

theorem inv_applyInput {i : Input} {s t : State} (h : Inv s) (hstep : applyInput i s = .next t) : Inv t := by
  cases i <;> simp only [applyInput] at hstep
  case regRead addr size => exact Host.Outcome.next.inj hstep ▸ inv_hostRead h addr size
  case regWrite addr size v => exact Host.Outcome.next.inj hstep ▸ inv_hostWrite h addr size v
  case engine => exact Host.Outcome.next.inj hstep ▸ inv_engineMove h
  case answer n a => exact Host.Outcome.next.inj hstep ▸ inv_serviceAnswer h n a
  case memRead addr len =>
    split at hstep
    · exact Host.Outcome.next.inj hstep ▸ h
    · cases hstep
  case memWrite addr bs =>
    split at hstep
    · exact Host.Outcome.next.inj hstep ▸ inv_agentWrite h addr bs
    · cases hstep
  case powerOn => exact Host.Outcome.next.inj hstep ▸ inv_resetMachine h

/-! ### Steps -/

/-- Everything a step can be. -/
theorem step_cases (s : State) :
    (∃ i rest, s.inputs = i :: rest ∧ step s = applyInput i { s with inputs := rest }) ∨
      step s = .next s ∨
      (∃ c i, s.engine.mode = .running c .validate ∧ decode c = .ok i ∧ step s = exec i s) ∨
      (∃ c ph e, s.engine.mode = .running c ph ∧ step s = .next (s.fail e)) ∨
      step s = .next (engineMove s) := by
  rcases hin : s.inputs with _ | ⟨i, rest⟩
  · rcases hm : s.engine.mode with _ | ⟨c, ph⟩
    · exact .inr (.inl (step_of_idle hin hm))
    · by_cases hp : ph = .validate
      · subst hp
        rcases hd : decode c with e | i
        · exact .inr (.inr (.inr (.inl ⟨c, _, illegalCause e, rfl, by rw [step_of_accepted hin hm, hd]⟩)))
        · exact .inr (.inr (.inl ⟨c, i, rfl, hd, by rw [step_of_accepted hin hm, hd]⟩))
      · exact .inr (.inr (.inr (.inr (step_of_phase hin hm hp))))
  · exact .inl ⟨i, rest, rfl, step_of_input hin⟩

/-- Settles O59: whichever move a step makes, it keeps the invariant. -/
theorem stepKeepsTheInvariant : Obligations.StepKeepsTheInvariant := by
  intro s t h hstep
  obtain ⟨i, rest, -, hs⟩ | hs | ⟨c, i, hm, hd, hs⟩ | ⟨c, ph, e, hm, hs⟩ | hs := step_cases s <;>
    rw [hs] at hstep
  · exact inv_applyInput (s := { s with inputs := rest }) h hstep
  · exact Host.Outcome.next.inj hstep ▸ h
  · exact inv_exec h hm ⟨i, hd⟩ hstep
  · exact Host.Outcome.next.inj hstep ▸ inv_fail (clear_of_inv h hm) e
  · exact Host.Outcome.next.inj hstep ▸ inv_engineMove h

/-- Settles O60: memory is empty, the parameters are legal and the engine is IDLE. -/
theorem resetMeetsTheInvariant : Obligations.ResetMeetsTheInvariant :=
  ⟨rfl, rfl, Nat.zero_le 5, iff_of_true rfl rfl, fun ha => absurd rfl ha, engineOk_idle rfl⟩

end Sys2Proof.Proofs
end

section
/-!
PROOF. What each rule of the BitStream, delta and splitter units keeps to: which errors it raises, that it reads
within the buffers the command names and writes within the output buffers, and which result registers it names
(20_memory.md R60; 10_state.md R21; 60_exceptions.md R181). With that, everything such a command can end in.
-/

namespace Sys2Proof.Proofs

open Sys2Proof Sys2Proof.Machine Sys2Proof.Safety Sys2Proof.Laws

/-! ### Errors by where they are raised (60_exceptions.md R181, R183) -/

/-- An error with neither a tag nor an address that a legal command can raise. -/
def PlainCause : Cause → Prop
  | .width | .count | .misaligned | .lenMultiple | .range | .overlap | .offset | .capacity => True
  | .negBitwidth | .bitwidthRange | .hdrCount | .lenMismatch | .fieldRange | .badTag => True
  | _ => False

/-- A tag 1 .. N_ALGO, where N_ALGO is legal. -/
def TagOk (s : State) (k : Nat) : Prop := s.cfg.wellFormed = true → 1 ≤ k ∧ k ≤ s.cfg.nAlgo

/-- The address of a refused byte of some buffers, where ADDR_BITS is legal. -/
def Refuses (s : State) (bufs : List Buf) (a : Word) : Prop :=
  s.cfg.wellFormed = true → RefusedByte s.cfg bufs a

/-- An error raised before WRITE, by a command that names these buffers. -/
def PreciseCause (named : List Buf) (s : State) : Cause → Prop
  | .compressFail k => TagOk s k
  | .decompressFail k => TagOk s k
  | .busRead a => Refuses s named a
  | e => PlainCause e

/-- An error raised in WRITE. -/
def WriteCause (named : List Buf) (s : State) : Cause → Prop
  | .nondeterministic k => TagOk s k
  | .busWrite a => Refuses s named a
  | _ => False

theorem preciseCause_of_plain {named : List Buf} {s : State} {e : Cause} (h : PlainCause e) :
    PreciseCause named s e := by
  cases e <;> first | exact h | exact h.elim

/-! ### Refused bytes -/

theorem addrBits_le {p : Params} (h : p.wellFormed = true) : p.addrBits ≤ 64 := by
  simp only [Params.wellFormed, Bool.and_eq_true, decide_eq_true_eq] at h
  omega

/-- A byte of a buffer in space has a 64-bit address. -/
theorem lt_of_inSpace {s : State} {b : Buf} {a : Nat} (hcfg : s.cfg.wellFormed = true) (h : InSpace s b)
    (ha : a < b.addr + b.len) : a < 2 ^ 64 :=
  calc a < b.addr + b.len := ha
    _ ≤ 2 ^ s.cfg.addrBits := h
    _ ≤ 2 ^ 64 := Nat.pow_le_pow_right (by decide) (addrBits_le hcfg)

theorem lt_of_covers {s : State} {bufs : List Buf} (hcfg : s.cfg.wellFormed = true)
    (h : ∀ b ∈ bufs, InSpace s b) {a : Nat} (ha : Covers bufs a) : a < 2 ^ 64 := by
  obtain ⟨b, hb, hab⟩ := ha
  exact lt_of_inSpace hcfg (h b hb) ((hasByte_iff b a).mp hab).2

/-- The address a bus error reports is that of a refused byte (60_exceptions.md R184). -/
theorem refusedByte_choose {p : Params} {bufs : List Buf} (hne : refusedIn p bufs ≠ [])
    (hlt : ∀ a, Covers bufs a → a < 2 ^ 64) (n : Nat) :
    RefusedByte p bufs (BitVec.ofNat 64 (chooseRefused n (refusedIn p bufs))) := by
  have hmem := chooseRefused_mem n hne
  obtain ⟨-, b, hb, hbyte⟩ := mem_refusedIn hmem
  exact refusedByte_of_mem hmem (hlt _ (covers_of_mem hb hbyte))

theorem refusedByte_mono {p : Params} {bufs bufs' : List Buf} {a : Word} (h : RefusedByte p bufs a)
    (hsub : ∀ x, Covers bufs x → Covers bufs' x) : RefusedByte p bufs' a := ⟨hsub _ h.1, h.2⟩

/-- The bus error's address, for bytes within buffers in space. -/
theorem refuses_choose {s : State} {bufs named : List Buf} (hne : refusedIn s.cfg bufs ≠ [])
    (hsub : ∀ a, Covers bufs a → Covers named a) (hspace : ∀ b ∈ named, InSpace s b) (n : Nat) :
    Refuses s named (BitVec.ofNat 64 (chooseRefused n (refusedIn s.cfg bufs))) := fun hcfg =>
  refusedByte_mono (refusedByte_choose hne (fun a ha => lt_of_covers hcfg hspace (hsub a ha)) n) hsub

/-! ### What a rule keeps to -/

/-- The result registers a command may name at COMMIT (10_state.md R21). -/
structure CommitOf (i : Instr) (c : Commit) : Prop where
  header : i ≠ .ddEnc32 → i ≠ .ddEnc64 → c.minReg = none ∧ c.bitWidth = none
  algo : i ≠ .ccSelect → c.algo = none
  result : i ≠ .bsRd32 → i ≠ .bsRd64 → c.result = none
  outLen : i ∈ [Instr.bsWr32, .bsWr64, .bsRd32, .bsRd64] → c.outLen = none

theorem CommitOf.freed {i : Instr} {c : Commit} (h : CommitOf i c) (n : Nat) : CommitOf i (c.freed n) := by
  refine ⟨fun h1 h2 => ?_, fun h1 => ?_, fun h1 h2 => ?_, fun h1 => ?_⟩
  · obtain ⟨hm, hb⟩ := h.header h1 h2
    simp [Commit.freed, hm, hb]
  · simp [Commit.freed, h.algo h1]
  · simp [Commit.freed, h.result h1 h2]
  · simp [Commit.freed, h.outLen h1]

/-- What the rule of a command keeps to, from a state where it starts. -/
structure RuleSound (i : Instr) (r : Rule) (s : State) : Prop where
  named : r.named s = namedBy i s
  checks : ∀ c ∈ r.checks s, PlainCause c.2
  space : firstFailure (r.checks s) = none → ∀ b ∈ namedBy i s, InSpace s b
  reads : firstFailure (r.checks s) = none → ∀ a, Covers (r.reads s) a → Covers (namedBy i s) a
  planError : ∀ e, r.plan s = .error e → PlainCause e
  writes : firstFailure (r.checks s) = none → ∀ job, r.plan s = .ok job →
    ∀ a, Covers (extentOf job.out) a → Covers (outputsOf i s) a
  commit : ∀ job, r.plan s = .ok job → CommitOf i job.commit
  outputs : ∀ a, Covers (outputsOf i s) a → Covers (namedBy i s) a

/-- A part of the destination from its start. -/
theorem covers_dstBuf {s : State} {n : Nat} (hn : n ≤ s.dstCap.toNat) {a : Nat}
    (ha : Covers [dstPart s n] a) : Covers [dstBuf s] a := by
  simp only [covers_cons, covers_nil, or_false, dstPart, dstBuf] at *
  omega

theorem covers_last {bufs : List Buf} {b : Buf} {a : Nat} (ha : Covers [b] a) : Covers (bufs ++ [b]) a := by
  obtain ⟨c, hc, hb⟩ := ha
  exact ⟨c, List.mem_append_right _ hc, hb⟩

/-- The words of a field lie in the buffer the field lies in (40_bitstream.md R110; 20_memory.md R79). -/
theorem fieldWords_le {w : Width} {o fw len : Nat} (hlen : len % wBytes w = 0) (hpos : 1 ≤ fw)
    (hend : o + fw ≤ 8 * len) :
    wordIndex w o * wBytes w + fieldWordCount w o fw * wBytes w ≤ len := by
  obtain ⟨q, rfl⟩ := Nat.dvd_of_mod_eq_zero hlen
  have ho := offset_eq w o
  have hb := bitIndex_lt w o
  have hW : 8 * (wBytes w * q) = q * wBits w := by rw [wBits_eq]; ring
  have hcount : wordIndex w o + fieldWordCount w o fw ≤ q := by
    refine Nat.le_of_lt_succ (Nat.lt_of_mul_lt_mul_right (a := wBits w) ?_)
    rw [Nat.succ_mul, Nat.add_mul]
    unfold fieldWordCount
    split
    next hs =>
      simp only [spans, decide_eq_true_eq] at hs
      omega
    next => omega
  rw [← Nat.add_mul, Nat.mul_comm]
  exact Nat.mul_le_mul_left _ hcount

theorem covers_of_fieldWords {w : Width} {base o fw len a : Nat} (hlen : len % wBytes w = 0)
    (hpos : 1 ≤ fw) (hend : o + fw ≤ 8 * len) (ha : Covers (fieldWords w base o fw) a) :
    Covers [⟨base, len⟩] a := by
  have hle := fieldWords_le hlen hpos hend
  rw [covers_fieldWords_iff] at ha
  simp only [covers_cons, covers_nil, or_false]
  omega

/-! ### Each rule -/

theorem bsWr_sound (w : Width) (s : State) : RuleSound (.bsWr w) (bsWrRule w) s := by
  have hnamed : namedBy (.bsWr w) s = [dstBuf s] := by cases w <;> rfl
  have houtputs : outputsOf (.bsWr w) s = [dstBuf s] := by cases w <;> rfl
  obtain ⟨job, hplan, hextent, hcommit, -⟩ := bsWrPlan_eq w s
  have hwords : firstFailure (bsWrChecks w s) = none → ∀ a, Covers (bsWrWords w s) a →
      Covers [dstBuf s] a := fun h a ha => by
    obtain ⟨⟨hpos, -⟩, -, hcap, -, hend⟩ := (bsWrChecks_pass_iff w s).mp h
    exact covers_of_fieldWords hcap hpos hend ha
  refine ⟨hnamed.symm, ?_, fun h => ?_, fun h => ?_, fun e he => ?_, fun h j hj => ?_, fun j hj => ?_, ?_⟩
  · simp [bsWrRule, bsWrChecks, PlainCause]
  · obtain ⟨-, -, -, hspace, -⟩ := (bsWrChecks_pass_iff w s).mp h
    rw [hnamed]
    exact List.forall_mem_singleton.mpr hspace
  · rw [hnamed]
    exact hwords h
  · cases hplan.symm.trans he
  · obtain rfl := Except.ok.inj (hplan.symm.trans hj)
    rw [hextent, houtputs]
    exact hwords h
  · obtain rfl := Except.ok.inj (hplan.symm.trans hj)
    rw [hcommit]
    exact ⟨fun _ _ => ⟨rfl, rfl⟩, fun _ => rfl, fun _ _ => rfl, fun _ => rfl⟩
  · rw [hnamed, houtputs]
    exact fun a ha => ha

theorem bsRd_sound (w : Width) (s : State) : RuleSound (.bsRd w) (bsRdRule w) s := by
  have hnamed : namedBy (.bsRd w) s = [srcBuf s] := by cases w <;> rfl
  have houtputs : outputsOf (.bsRd w) s = [] := by cases w <;> rfl
  have hmine : Instr.bsRd w = .bsRd32 ∨ Instr.bsRd w = .bsRd64 := by cases w <;> simp [Instr.bsRd]
  refine ⟨hnamed.symm, ?_, fun h => ?_, fun h a ha => ?_, fun e he => ?_, fun h j hj a ha => ?_,
    fun j hj => ?_, fun a ha => ?_⟩
  · simp [bsRdRule, bsRdChecks, PlainCause]
  · obtain ⟨-, -, -, hspace, -⟩ := (bsRdChecks_pass_iff w s).mp h
    rw [hnamed]
    exact List.forall_mem_singleton.mpr hspace
  · obtain ⟨⟨hpos, -⟩, -, hlen, -, hend⟩ := (bsRdChecks_pass_iff w s).mp h
    rw [hnamed]
    exact covers_of_fieldWords hlen hpos hend ha
  · cases he
  · obtain rfl := Except.ok.inj hj
    exact absurd ha (covers_nil a)
  · obtain rfl := Except.ok.inj hj
    exact ⟨fun _ _ => ⟨rfl, rfl⟩, fun _ => rfl, fun h1 h2 => absurd hmine (by simp [h1, h2]), fun _ => rfl⟩
  · rw [houtputs] at ha
    exact absurd ha (covers_nil a)

/-- A COMMIT that names OUT_LEN alone suits every command but the BitBuffer accesses. -/
theorem commitOf_outLen {i : Instr} (h : i ∉ [Instr.bsWr32, .bsWr64, .bsRd32, .bsRd64]) (v : Word) :
    CommitOf i { outLen := some v } :=
  ⟨fun _ _ => ⟨rfl, rfl⟩, fun _ => rfl, fun _ _ => rfl, fun h' => absurd h' h⟩

theorem bsPack_sound (w : Width) (s : State) : RuleSound (.bsPack w) (bsPackRule w) s := by
  have hnamed : namedBy (.bsPack w) s = [srcArray w s, dstBuf s] := by cases w <;> rfl
  have houtputs : outputsOf (.bsPack w) s = [dstBuf s] := by cases w <;> rfl
  obtain ⟨job, hplan, hextent, hcommit, -⟩ := bsPackPlan_eq w s
  refine ⟨hnamed.symm, ?_, fun h => ?_, fun h a ha => ?_, fun e he => ?_, fun h j hj a ha => ?_,
    fun j hj => ?_, fun a ha => ?_⟩
  · simp [bsPackRule, bsPackChecks, PlainCause]
  · obtain ⟨-, -, -, -, hsrc, hdst, -⟩ := (bsPackChecks_pass_iff w s).mp h
    rw [hnamed]
    exact List.forall_mem_cons.mpr ⟨hsrc, List.forall_mem_singleton.mpr hdst⟩
  · rw [hnamed, covers_cons]
    exact .inl (by simpa [bsPackRule] using ha)
  · cases hplan.symm.trans he
  · obtain ⟨-, -, -, -, -, -, -, hcap⟩ := (bsPackChecks_pass_iff w s).mp h
    obtain rfl := Except.ok.inj (hplan.symm.trans hj)
    rw [hextent] at ha
    rw [houtputs]
    exact covers_dstBuf hcap ha
  · obtain rfl := Except.ok.inj (hplan.symm.trans hj)
    rw [hcommit]
    exact commitOf_outLen (by cases w <;> decide) _
  · rw [hnamed]
    exact covers_last (bufs := [srcArray w s]) (houtputs ▸ ha)

theorem bsUnpack_sound (w : Width) (s : State) : RuleSound (.bsUnpack w) (bsUnpackRule w) s := by
  have hnamed : namedBy (.bsUnpack w) s = [srcBuf s, dstBuf s] := by cases w <;> rfl
  have houtputs : outputsOf (.bsUnpack w) s = [dstBuf s] := by cases w <;> rfl
  obtain ⟨job, hplan, hextent, hcommit, -⟩ := bsUnpackPlan_eq w s
  refine ⟨hnamed.symm, ?_, fun h => ?_, fun h a ha => ?_, fun e he => ?_, fun h j hj a ha => ?_,
    fun j hj => ?_, fun a ha => ?_⟩
  · simp [bsUnpackRule, bsUnpackChecks, PlainCause]
  · obtain ⟨-, -, -, -, hsrc, hdst, -⟩ := (bsUnpackChecks_pass_iff w s).mp h
    rw [hnamed]
    exact List.forall_mem_cons.mpr ⟨hsrc, List.forall_mem_singleton.mpr hdst⟩
  · rw [hnamed, covers_cons]
    exact .inl (by simpa [bsUnpackRule] using ha)
  · cases hplan.symm.trans he
  · obtain ⟨-, -, -, -, -, -, -, -, hcap⟩ := (bsUnpackChecks_pass_iff w s).mp h
    obtain rfl := Except.ok.inj (hplan.symm.trans hj)
    rw [hextent] at ha
    rw [houtputs]
    exact covers_dstBuf hcap ha
  · obtain rfl := Except.ok.inj (hplan.symm.trans hj)
    rw [hcommit]
    exact commitOf_outLen (by cases w <;> decide) _
  · rw [hnamed]
    exact covers_last (bufs := [srcBuf s]) (houtputs ▸ ha)

theorem ddEnc_sound (w : Width) (s : State) : RuleSound (.ddEnc w) (ddEncRule w) s := by
  have hnamed : namedBy (.ddEnc w) s = [srcArray w s, dstBuf s] := by cases w <;> rfl
  have houtputs : outputsOf (.ddEnc w) s = [dstBuf s] := by cases w <;> rfl
  have hmine : Instr.ddEnc w = .ddEnc32 ∨ Instr.ddEnc w = .ddEnc64 := by cases w <;> simp [Instr.ddEnc]
  have hok : ∀ j, ddEncPlan w s = .ok j → payloadSize w s ≤ s.dstCap.toNat := fun j hj => by
    by_contra hshort
    cases (ddEncPlan_of_short (not_le.mp hshort)).symm.trans hj
  refine ⟨hnamed.symm, ?_, fun h => ?_, fun h a ha => ?_, fun e he => ?_, fun h j hj a ha => ?_,
    fun j hj => ?_, fun a ha => ?_⟩
  · simp [ddEncRule, ddEncChecks, PlainCause]
  · obtain ⟨-, -, -, hsrc, hdst, -⟩ := (ddEncChecks_pass_iff w s).mp h
    rw [hnamed]
    exact List.forall_mem_cons.mpr ⟨hsrc, List.forall_mem_singleton.mpr hdst⟩
  · rw [hnamed, covers_cons]
    exact .inl (by simpa [ddEncRule] using ha)
  · obtain hshort | hfits := Nat.lt_or_ge s.dstCap.toNat (payloadSize w s)
    · obtain rfl := Except.error.inj ((ddEncPlan_of_short hshort).symm.trans he)
      trivial
    · obtain ⟨job, hplan, -⟩ := ddEncPlan_of_fits hfits
      cases hplan.symm.trans he
  · obtain ⟨job, hplan, hextent, -, -⟩ := ddEncPlan_of_fits (hok j hj)
    obtain rfl := Except.ok.inj (hplan.symm.trans hj)
    rw [hextent] at ha
    rw [houtputs]
    exact covers_dstBuf (hok _ hj) ha
  · obtain ⟨job, hplan, -, hcommit, -⟩ := ddEncPlan_of_fits (hok j hj)
    obtain rfl := Except.ok.inj (hplan.symm.trans hj)
    rw [hcommit]
    exact ⟨fun h1 h2 => absurd hmine (by simp [h1, h2]), fun _ => rfl, fun _ _ => rfl,
      fun h => absurd h (by cases w <;> decide)⟩
  · rw [hnamed]
    exact covers_last (bufs := [srcArray w s]) (houtputs ▸ ha)

/-- The conditions of DD.DEC's checks, from the header width on. -/
theorem ddDecLegal_of_checks {w : Width} {s : State} (h : firstFailure (ddDecChecks w s) = none) :
    ∃ bw : Nat, DdDecLegal w bw s := by
  simp only [firstFailure_eq_none_iff, ddDecChecks, List.forall_mem_cons,
    badCount_eq_false_iff, notMultiple_eq_false_iff, outOfSpace_eq_false_iff, Bool.not_eq_false',
    disjoint_iff, decide_eq_false_iff_not, not_lt, not_not] at h
  obtain ⟨h0, hW, hn, hlen, hsrc, hdst, hspace, hspace', hapart, hcap, -⟩ := h
  refine ⟨s.bitWidth.toInt.toNat, (Int.toNat_of_nonneg h0).symm, ?_, hn, hlen, hsrc, hdst, hspace,
    hspace', hapart, hcap⟩
  rw [headerWidth] at hW
  omega

theorem ddDec_sound (w : Width) (s : State) : RuleSound (.ddDec w) (ddDecRule w) s := by
  have hnamed : namedBy (.ddDec w) s = [srcBuf s, dstBuf s] := by cases w <;> rfl
  have houtputs : outputsOf (.ddDec w) s = [dstBuf s] := by cases w <;> rfl
  obtain ⟨job, hplan, hextent, hcommit, -⟩ := ddDecPlan_eq w s
  refine ⟨hnamed.symm, ?_, fun h => ?_, fun h a ha => ?_, fun e he => ?_, fun h j hj a ha => ?_,
    fun j hj => ?_, fun a ha => ?_⟩
  · simp [ddDecRule, ddDecChecks, PlainCause]
  · obtain ⟨bw, -, -, -, -, -, -, hsrc, hdst, -⟩ := ddDecLegal_of_checks h
    rw [hnamed]
    exact List.forall_mem_cons.mpr ⟨hsrc, List.forall_mem_singleton.mpr hdst⟩
  · rw [hnamed, covers_cons]
    exact .inl (by simpa [ddDecRule] using ha)
  · cases hplan.symm.trans he
  · obtain ⟨bw, -, -, -, -, -, -, -, -, -, hcap⟩ := ddDecLegal_of_checks h
    obtain rfl := Except.ok.inj (hplan.symm.trans hj)
    rw [hextent] at ha
    rw [houtputs]
    exact covers_dstBuf hcap ha
  · obtain rfl := Except.ok.inj (hplan.symm.trans hj)
    rw [hcommit]
    exact commitOf_outLen (by cases w <;> decide) _
  · rw [hnamed]
    exact covers_last (bufs := [srcBuf s]) (houtputs ▸ ha)

theorem fsSplit_sound (w : Width) (s : State) : RuleSound (.fsSplit w) (fsSplitRule w) s := by
  have hnamed : namedBy (.fsSplit w) s = srcArray w s :: channelArrays w s := by cases w <;> rfl
  have houtputs : outputsOf (.fsSplit w) s = channelArrays w s := by cases w <;> rfl
  obtain ⟨job, hplan, hextent, hcommit, -⟩ := fsSplitPlan_eq w s
  refine ⟨hnamed.symm, ?_, fun h => ?_, fun h a ha => ?_, fun e he => ?_, fun h j hj a ha => ?_,
    fun j hj => ?_, fun a ha => ?_⟩
  · simp [fsSplitRule, fsSplitChecks, PlainCause]
  · obtain ⟨-, -, ⟨hsrc, h0, h1, h2⟩, -⟩ := (fsSplitChecks_pass_iff w s).mp h
    rw [hnamed]
    exact List.forall_mem_cons.mpr ⟨hsrc, List.forall_mem_cons.mpr ⟨h0,
      List.forall_mem_cons.mpr ⟨h1, List.forall_mem_singleton.mpr h2⟩⟩⟩
  · rw [hnamed, covers_cons]
    exact .inl (by simpa [fsSplitRule] using ha)
  · cases hplan.symm.trans he
  · obtain rfl := Except.ok.inj (hplan.symm.trans hj)
    rwa [houtputs, ← hextent]
  · obtain rfl := Except.ok.inj (hplan.symm.trans hj)
    rw [hcommit]
    exact commitOf_outLen (by cases w <;> decide) _
  · rw [hnamed, covers_cons]
    exact .inr (houtputs ▸ ha)

theorem fsRecomb_sound (w : Width) (s : State) : RuleSound (.fsRecomb w) (fsRecombRule w) s := by
  have hnamed : namedBy (.fsRecomb w) s = channelArrays w s ++ [dstBuf s] := by cases w <;> rfl
  have houtputs : outputsOf (.fsRecomb w) s = [dstBuf s] := by cases w <;> rfl
  have hok : ∀ j, fsRecombPlan w s = .ok j → ChannelsFit w s := fun j hj => by
    by_contra hwide
    cases (fsRecombPlan_of_wide hwide).symm.trans hj
  refine ⟨hnamed.symm, ?_, fun h => ?_, fun h a ha => ?_, fun e he => ?_, fun h j hj a ha => ?_,
    fun j hj => ?_, fun a ha => ?_⟩
  · simp [fsRecombRule, fsRecombChecks, PlainCause]
  · obtain ⟨-, -, ⟨h0, h1, h2, hdst⟩, -⟩ := (fsRecombChecks_pass_iff w s).mp h
    rw [hnamed]
    exact List.forall_mem_cons.mpr ⟨h0, List.forall_mem_cons.mpr ⟨h1,
      List.forall_mem_cons.mpr ⟨h2, List.forall_mem_singleton.mpr hdst⟩⟩⟩
  · rw [hnamed]
    obtain ⟨b, hb, hab⟩ := ha
    exact ⟨b, List.mem_append_left _ hb, hab⟩
  · by_cases hfit : ChannelsFit w s
    · obtain ⟨job, hplan, -⟩ := fsRecombPlan_of_fit hfit
      cases hplan.symm.trans he
    · obtain rfl := Except.error.inj ((fsRecombPlan_of_wide hfit).symm.trans he)
      trivial
  · obtain ⟨-, -, -, -, hcap⟩ := (fsRecombChecks_pass_iff w s).mp h
    obtain ⟨job, hplan, hextent, -, -⟩ := fsRecombPlan_of_fit (hok j hj)
    obtain rfl := Except.ok.inj (hplan.symm.trans hj)
    rw [hextent] at ha
    rw [houtputs]
    exact covers_dstBuf hcap ha
  · obtain ⟨job, hplan, -, hcommit, -⟩ := fsRecombPlan_of_fit (hok j hj)
    obtain rfl := Except.ok.inj (hplan.symm.trans hj)
    rw [hcommit]
    exact commitOf_outLen (by cases w <;> decide) _
  · rw [hnamed]
    exact covers_last (houtputs ▸ ha)

/-- Every rule keeps to what its command may do. -/
theorem rule_sound {i : Instr} {r : Rule} (h : unitOf i = .rule r) (s : State) : RuleSound i r s := by
  cases i <;> cases h
  case bsWr32 => exact bsWr_sound .w32 s
  case bsWr64 => exact bsWr_sound .w64 s
  case bsRd32 => exact bsRd_sound .w32 s
  case bsRd64 => exact bsRd_sound .w64 s
  case bsPack32 => exact bsPack_sound .w32 s
  case bsPack64 => exact bsPack_sound .w64 s
  case bsUnpack32 => exact bsUnpack_sound .w32 s
  case bsUnpack64 => exact bsUnpack_sound .w64 s
  case ddEnc32 => exact ddEnc_sound .w32 s
  case ddEnc64 => exact ddEnc_sound .w64 s
  case ddDec32 => exact ddDec_sound .w32 s
  case ddDec64 => exact ddDec_sound .w64 s
  case fsSplit32 => exact fsSplit_sound .w32 s
  case fsSplit64 => exact fsSplit_sound .w64 s
  case fsRecomb32 => exact fsRecomb_sound .w32 s
  case fsRecomb64 => exact fsRecomb_sound .w64 s

/-! ### Everything a command can end in -/

/-- The states a command that starts in `s` can lead to: a precise error, an error in WRITE, success, or, where
the service withholds an answer, a state that is still busy. -/
inductive CommandEnd (i : Instr) (s : State) : State → Prop
  | precise (svc : List Answer) {e : Cause} (he : PreciseCause (namedBy i s) s e) :
      CommandEnd i s (State.fail e { s with service := svc })
  | inWrite (svc : List Answer) {x : List Buf} {e : Cause}
      (hx : ∀ a, Covers x a → Covers (outputsOf i s) a) (he : WriteCause (namedBy i s) s e) :
      CommandEnd i s (State.failLosing x e { s with service := svc })
  | success (svc : List Answer) {m : Memory} {n : Nat} {c : Commit}
      (hm : Memory.wf s.mem = true → SameOutside (outputsOf i s) s.mem m) (hc : CommitOf i c) :
      CommandEnd i s (State.succeed c { s with service := svc, mem := m, fresh := n })
  | running (svc : List Answer) {m : Memory} {g : Engine}
      (hm : Memory.wf s.mem = true → SameOutside (outputsOf i s) s.mem m) (hg : g.mode ≠ .idle) :
      CommandEnd i s { s with engine := g, service := svc, mem := m }

/-- COMMIT is a success, raced or not. -/
theorem commandEnd_conclude {i : Instr} {s u : State} {named x : List Buf} {c : Commit}
    (hu : u = { s with engine := u.engine, service := u.service, mem := u.mem })
    (hwf : Memory.wf s.mem = true → Memory.wf u.mem = true)
    (hm : Memory.wf s.mem = true → SameOutside (outputsOf i s) s.mem u.mem)
    (hx : ∀ a, Covers x a → Covers (outputsOf i s) a) (hc : CommitOf i c) :
    CommandEnd i s (conclude named x c u) := by
  unfold conclude
  split
  · have hlost : Memory.wf s.mem = true → SameOutside (outputsOf i s) s.mem (u.loseExtent x).mem :=
      fun h => sameOutside_trans (hm h) (sameOutside_mono (sameOutside_loseExtent (hwf h) x) hx)
    have ht : (u.loseExtent x).succeed (c.freed u.fresh) =
        State.succeed (c.freed u.fresh)
          { s with service := u.service, mem := (u.loseExtent x).mem, fresh := u.fresh + 1 } := by
      rw [hu]
      rfl
    rw [ht]
    exact .success u.service hlost (hc.freed _)
  · have ht : u.succeed c = State.succeed c { s with service := u.service, mem := u.mem, fresh := s.fresh } := by
      rw [hu]
      rfl
    rw [ht]
    exact .success u.service hm hc

theorem plainCause_of_firstFailure {cs : List Check} (hcs : ∀ c ∈ cs, PlainCause c.2) {e : Cause}
    (h : firstFailure cs = some e) : PlainCause e := by
  induction cs with
  | nil => cases h
  | cons c cs ih =>
    obtain ⟨hc, hcs⟩ := List.forall_mem_cons.mp hcs
    rw [firstFailure] at h
    split at h
    · exact Option.some.inj h ▸ hc
    · exact ih hcs h

/-- A READ that raises: a refused byte of a named buffer, or an error in the data. -/
theorem preciseCause_of_readPhase {i : Instr} {r : Rule} {s : State} (hr : RuleSound i r s)
    (hchecks : firstFailure (r.checks s) = none) {e : Cause} (h : readPhase r s = .error e) :
    PreciseCause (namedBy i s) s e := by
  by_cases hreads : refusedIn s.cfg (r.reads s) = []
  · rw [readPhase_of_admitted hreads] at h
    exact preciseCause_of_plain (hr.planError e h)
  · rw [readPhase_of_refused hreads] at h
    obtain rfl := Except.error.inj h
    exact refuses_choose hreads (hr.reads hchecks) (hr.space hchecks) _

theorem plan_of_readPhase {r : Rule} {s : State} {job : Job} (h : readPhase r s = .ok job) :
    r.plan s = .ok job := by
  by_cases hreads : refusedIn s.cfg (r.reads s) = []
  · rwa [readPhase_of_admitted hreads] at h
  · rw [readPhase_of_refused hreads] at h
    cases h

theorem commandEnd_runRule {i : Instr} {r : Rule} {s : State} (hr : RuleSound i r s) :
    CommandEnd i s (runRule r s) := by
  obtain ⟨e, he, ht⟩ | ⟨job, hchecks, hread, h⟩ := runRule_cases r s
  · rw [ht]
    refine .precise s.service ?_
    obtain he | ⟨hchecks, he⟩ := he
    · exact preciseCause_of_plain (plainCause_of_firstFailure hr.checks he)
    · exact preciseCause_of_readPhase hr hchecks he
  · have hplan := plan_of_readPhase hread
    have hwrites := hr.writes hchecks job hplan
    obtain ⟨hbad, ht⟩ | ⟨-, ht⟩ := h <;> rw [ht]
    · refine .inWrite s.service hwrites ?_
      exact refuses_choose hbad (fun a ha => hr.outputs a (hwrites a ha)) (hr.space hchecks) _
    · exact commandEnd_conclude (u := { s with mem := storePieces s.mem job.out }) rfl
        (storePieces_wf _) (fun h => sameOutside_mono (sameOutside_storePieces h job.out) hwrites) hwrites
        (hr.commit job hplan)

end Sys2Proof.Proofs
end

section
/-!
PROOF. What a CC command keeps to on its way (43_channel_compressor.md R162): an invariant for each state of the
FSM, kept by every row, from which the selector's endings follow as those of the rules do. Then the statements
about every command: interrupt, registers, memory, errors (10_state.md R21; 20_memory.md R60; 60_exceptions.md).
-/

namespace Sys2Proof.Proofs

open Sys2Proof Sys2Proof.Machine Sys2Proof.Safety Sys2Proof.Laws

/-! ### The invariant of each FSM state -/

/-- The checks have passed and the input is not empty: SIZE, PICK and EMIT are ahead. -/
structure Selecting (op : PortOp) (s : State) : Prop where
  passed : firstFailure (ccChecks op s) = none
  input : s.srcLen.toNat ≠ 0
  tag : ¬Copies op s

/-- In COMMIT of a CC command that starts in `s`: an empty output, or bytes stored at DST. -/
def Outputs (op : PortOp) (s u : State) : Prop :=
  (u.mem = s.mem ∧ u.engine.extent = [] ∧ s.srcLen.toNat = 0 ∧ u.engine.bestLen = some 0 ∧
      (op = .compress → u.engine.bestK = 0)) ∨
    ∃ bs, u.mem = writeBytes s.mem s.dstAddr.toNat bs ∧ u.engine.bestLen = some bs.length ∧
      u.engine.extent = [dstPart s bs.length] ∧ bs.length ≤ s.dstCap.toNat ∧
      refusedIn s.cfg [dstPart s bs.length] = [] ∧
      (op = .compress → s.srcLen.toNat ≠ 0 ∧ TagOk s u.engine.bestK)

/-- In ERROR: an error raised before WRITE, or one raised in WRITE with the extent within DST. -/
def Raised (s u : State) (e : Cause) : Prop :=
  u.mem = s.mem ∧
    ((u.engine.extent = [] ∧ PreciseCause (ccNamed s) s e) ∨
      ∃ n, u.engine.extent = [dstPart s n] ∧ n ≤ s.dstCap.toNat ∧ WriteCause (ccNamed s) s e)

/-- What holds in each FSM state of a command that starts in `s`. -/
def StageAt (op : PortOp) (s u : State) : Prop :=
  match u.engine.fsm with
  | .idle => False
  | .check => u.mem = s.mem ∧ u.engine.extent = []
  | .size =>
    u.mem = s.mem ∧ u.engine.extent = [] ∧ Selecting op s ∧ TagOk s u.engine.k ∧
      (u.engine.bestLen = none ∨ TagOk s u.engine.bestK)
  | .pick => u.mem = s.mem ∧ u.engine.extent = [] ∧ Selecting op s ∧ TagOk s u.engine.bestK
  | .emit =>
    u.mem = s.mem ∧ u.engine.extent = [dstPart s (u.engine.bestLen.getD 0)] ∧
      u.engine.bestLen.getD 0 ≤ s.dstCap.toNat ∧ Selecting op s ∧ TagOk s u.engine.bestK
  | .copy =>
    u.mem = s.mem ∧ u.engine.extent = [] ∧ firstFailure (ccChecks op s) = none ∧ Copies op s
  | .commit => Outputs op s u
  | .error => ∃ e, u.engine.cause = some e ∧ Raised s u e

/-- A state on the way of a CC command that starts in `s`. -/
structure Stage (op : PortOp) (s u : State) : Prop where
  goesOn : GoesOn (enterCheck s) u
  stage : StageAt op s u

theorem goesOn_frame {s u : State} (h : GoesOn (enterCheck s) u) :
    u = { s with engine := u.engine, service := u.service, mem := u.mem } := h.frame

/-- The registers a check or a buffer looks at are those of the start. -/
theorem Stage.regs {op : PortOp} {s u : State} (h : Stage op s u) :
    u.cfg = s.cfg ∧ srcBuf u = srcBuf s ∧ u.dstAddr = s.dstAddr ∧ u.dstCap = s.dstCap ∧
      u.srcLen = s.srcLen ∧ u.algo = s.algo ∧ ccChecks op u = ccChecks op s := by
  rw [goesOn_frame h.goesOn]
  exact ⟨rfl, rfl, rfl, rfl, rfl, rfl, rfl⟩

theorem passed_compress_iff (s : State) :
    firstFailure (ccChecks .compress s) = none ↔ CcBuffersOk s := by
  simp [firstFailure_eq_none_iff, ccChecks, CcBuffersOk, outOfSpace_eq_false_iff, disjoint_iff]

theorem passed_decompress_iff (s : State) :
    firstFailure (ccChecks .decompress s) = none ↔
      s.algo.toNat ≤ s.cfg.nAlgo ∧ CcBuffersOk s ∧
        (s.algo.toNat = 0 → s.srcLen.toNat ≤ s.dstCap.toNat) := by
  simp only [firstFailure_eq_none_iff, ccChecks, List.forall_mem_cons, outOfSpace_eq_false_iff,
    Bool.not_eq_false', disjoint_iff, decide_eq_false_iff_not, not_lt, Bool.and_eq_false_imp,
    decide_eq_true_eq, CcBuffersOk, and_assoc, List.not_mem_nil, false_imp_iff, implies_true, and_true]

theorem buffersOk_of_passed {op : PortOp} {s : State} (h : firstFailure (ccChecks op s) = none) :
    CcBuffersOk s := by
  cases op
  · exact (passed_compress_iff s).mp h
  · exact ((passed_decompress_iff s).mp h).2.1

theorem named_inSpace {op : PortOp} {s : State} (h : firstFailure (ccChecks op s) = none) :
    ∀ b ∈ ccNamed s, InSpace s b := by
  obtain ⟨hsrc, hdst, -⟩ := buffersOk_of_passed h
  exact List.forall_mem_cons.mpr ⟨hsrc, List.forall_mem_singleton.mpr hdst⟩

theorem covers_named_of_src {s : State} {a : Nat} (ha : Covers [srcBuf s] a) : Covers (ccNamed s) a := by
  rw [ccNamed, covers_cons]
  exact .inl (by simpa using ha)

theorem covers_named_of_dst {s : State} {a : Nat} (ha : Covers [dstBuf s] a) : Covers (ccNamed s) a :=
  covers_last (bufs := [srcBuf s]) ha

theorem tagOk_firstTag {op : PortOp} {s : State} (h : Selecting op s) : TagOk s (firstTag op s) := by
  intro hcfg
  cases op
  · simp only [Params.wellFormed, Bool.and_eq_true, decide_eq_true_eq] at hcfg
    exact ⟨le_rfl, hcfg.1.1.1.1⟩
  · have hne : s.algo.toNat ≠ 0 := fun h0 => h.tag ⟨rfl, h0⟩
    exact ⟨Nat.one_le_iff_ne_zero.mpr hne, ((passed_decompress_iff s).mp h.passed).1⟩

/-- The best tag after an answer is that of the answer or the earlier best. -/
theorem tagOk_consider {op : PortOp} {s u : State} {len : Nat} (hk : TagOk s u.engine.k)
    (hb : u.engine.bestLen = none ∨ TagOk s u.engine.bestK) :
    TagOk s (consider op len u).engine.bestK := by
  unfold consider
  split
  next => exact hk
  next hno =>
    obtain hb | hb := hb
    · exact absurd (.inr (by rw [hb]; rfl)) hno
    · exact hb

theorem consider_extent (op : PortOp) (len : Nat) (u : State) :
    (consider op len u).engine.extent = u.engine.extent := by
  unfold consider
  split <;> rfl

theorem consider_mem (op : PortOp) (len : Nat) (u : State) : (consider op len u).mem = u.mem := by
  unfold consider
  split <;> rfl

theorem consider_fsm (op : PortOp) (len : Nat) (u : State) :
    (consider op len u).engine.fsm = u.engine.fsm := by
  unfold consider
  split <;> rfl

/-- A refused byte of an output that fits is one of the destination's. -/
theorem writeCause_of_refused {op : PortOp} {s u : State} {n : Nat} (hpass : firstFailure (ccChecks op s) = none)
    (hle : n ≤ s.dstCap.toNat) (hbad : refusedIn s.cfg [dstPart s n] ≠ []) :
    WriteCause (ccNamed s) s (busWriteCause u (refusedIn s.cfg [dstPart s n])) :=
  refuses_choose hbad (fun _ ha => covers_named_of_dst (covers_dstBuf hle ha)) (named_inSpace hpass) _

/-- The extent of a copy. -/
theorem Stage.copying_extent {op : PortOp} {s u : State} (h : Stage op s u) :
    (copying u).engine.extent = [dstPart s s.srcLen.toNat] := by
  obtain ⟨-, -, hdst, -, hlen, -⟩ := h.regs
  rw [dstPart, ← hdst, ← hlen]
  rfl

/-- A copy that is stored is an output of the right length. -/
theorem Stage.outputs_copied {s u : State} (h : Stage .decompress s u) (hmem : u.mem = s.mem)
    (hle : s.srcLen.toNat ≤ s.dstCap.toNat) (hok : refusedIn s.cfg [dstPart s s.srcLen.toNat] = []) :
    Outputs .decompress s (toCommit (stored (ccInput u) (copying u))) := by
  obtain ⟨-, -, hdst, -, hlen, -⟩ := h.regs
  have hbytes : (ccInput u).length = s.srcLen.toNat := by rw [ccInput, length_readBytes, hlen]
  refine .inr ⟨ccInput u, ?_, ?_, ?_, ?_, ?_, fun h' => by cases h'⟩
  · rw [← hmem, ← hdst]
    rfl
  · rw [hbytes, ← hlen]
    rfl
  · rw [hbytes]
    exact h.copying_extent
  · rwa [hbytes]
  · rwa [hbytes]

/-- Every row that goes on keeps the invariant. -/
theorem stageAt_of_row {op : PortOp} {s u t : State} (h : Stage op s u) (hrow : Row op u t) :
    StageAt op s t ∨ Ends op u t := by
  obtain ⟨hcfg, hsrc, hdst, hcap, hlen, halgo, hchecks⟩ := h.regs
  have hat := h.stage
  have hcopies : Copies op u ↔ Copies op s := by rw [Copies, Copies, halgo]
  cases hrow with
  | start hf =>
    rw [StageAt, hf] at hat
    exact hat.elim
  | invalid hf he =>
    rw [StageAt, hf] at hat
    rw [hchecks] at he
    refine .inl ⟨_, rfl, hat.1, .inl ⟨hat.2, preciseCause_of_plain (plainCause_of_firstFailure ?_ he)⟩⟩
    cases op <;> simp [ccChecks, PlainCause]
  | empty hf hpass hc hl =>
    rw [StageAt, hf] at hat
    refine .inl (.inl ⟨hat.1, hat.2, hlen ▸ hl, rfl, ?_⟩)
    rintro rfl
    rfl
  | size hf hpass hc hl =>
    rw [StageAt, hf] at hat
    have hsel : Selecting op s := ⟨hchecks ▸ hpass, hlen ▸ hl, fun h' => hc (hcopies.mpr h')⟩
    have htag : firstTag op u = firstTag op s := by cases op <;> simp [firstTag, halgo]
    exact .inl ⟨hat.1, hat.2, hsel, htag ▸ tagOk_firstTag hsel, .inl rfl⟩
  | copy hf hpass hc =>
    rw [StageAt, hf] at hat
    exact .inl ⟨hat.1, hat.2, hchecks ▸ hpass, hcopies.mp hc⟩
  | sourceRefused hf hbad =>
    have hfacts : u.mem = s.mem ∧ u.engine.extent = [] ∧ firstFailure (ccChecks op s) = none := by
      obtain hf | hf := hf <;> rw [StageAt, hf] at hat
      · exact ⟨hat.1, hat.2.1, hat.2.2.1.passed⟩
      · exact ⟨hat.1, hat.2.1, hat.2.2.1⟩
    obtain ⟨hmem, hext, hpass⟩ := hfacts
    rw [hcfg, hsrc] at *
    exact .inl ⟨_, rfl, hmem, .inl ⟨hext, refuses_choose hbad (fun a => covers_named_of_src)
      (named_inSpace hpass) _⟩⟩
  | sizeWaits hf hin ha =>
    rw [StageAt, hf] at hat
    refine .inl ?_
    rw [StageAt, show (waiting _ (asked _ u)).engine.fsm = .size from hf]
    exact hat
  | sizeFails hf hin ha =>
    rw [StageAt, hf] at hat
    obtain ⟨hmem, hext, -, hk, -⟩ := hat
    exact .inl ⟨_, rfl, hmem, .inl ⟨hext, by cases op <;> exact hk⟩⟩
  | @sizeNext hf bs r hin ha hop hk =>
    rw [StageAt, hf] at hat
    obtain ⟨hmem, hext, hsel, htag, hbest⟩ := hat
    have hnext : TagOk s (nextTag (consider op r.length (asked bs u))).engine.k := by
      intro h'
      rw [hcfg] at hk
      simp only [nextTag, consider_k]
      exact ⟨Nat.le_add_left 1 _, hk⟩
    refine .inl ?_
    rw [StageAt, show (nextTag (consider op r.length (asked bs u))).engine.fsm = .size from
      (consider_fsm op r.length (asked bs u)).trans hf]
    exact ⟨(consider_mem _ _ _).trans hmem, (consider_extent _ _ _).trans hext, hsel, hnext,
      .inr (tagOk_consider (u := asked bs u) htag hbest)⟩
  | @sizeLast hf bs r hin ha hk =>
    rw [StageAt, hf] at hat
    obtain ⟨hmem, hext, hsel, htag, hbest⟩ := hat
    exact .inl ⟨(consider_mem _ _ _).trans hmem, (consider_extent _ _ _).trans hext, hsel,
      tagOk_consider (u := asked bs u) htag hbest⟩
  | short hf hlt =>
    rw [StageAt, hf] at hat
    exact .inl ⟨_, rfl, hat.1, .inl ⟨hat.2.1, trivial⟩⟩
  | emit hf hle =>
    rw [StageAt, hf] at hat
    obtain ⟨hmem, -, hsel, htag⟩ := hat
    exact .inl ⟨hmem, by rw [dstPart, ← hdst]; rfl, hcap ▸ hle, hsel, htag⟩
  | emitWaits hf ha =>
    rw [StageAt, hf] at hat
    refine .inl ?_
    rw [StageAt, show (waiting _ (served u)).engine.fsm = .emit from hf]
    exact hat
  | emitDiffers hf ha hr =>
    rw [StageAt, hf] at hat
    obtain ⟨hmem, hext, hle, -, htag⟩ := hat
    exact .inl ⟨_, rfl, hmem, .inr ⟨_, hext, hle, htag⟩⟩
  | emitRefused hf ha hr hbad =>
    rw [StageAt, hf] at hat
    obtain ⟨hmem, hext, hle, hsel, -⟩ := hat
    rw [hcfg, hext] at hbad
    refine .inl ⟨_, rfl, hmem, .inr ⟨_, hext, hle, ?_⟩⟩
    rw [hcfg, hext]
    exact writeCause_of_refused hsel.passed hle hbad
  | @emitStored hf bs ha hr hok =>
    rw [StageAt, hf] at hat
    obtain ⟨hmem, hext, hle, hsel, htag⟩ := hat
    rw [hr, Option.getD_some] at hext hle
    rw [hcfg, hext] at hok
    refine .inl (.inr ⟨bs, ?_, hr, hext, hle, hok, fun _ => ⟨hsel.input, htag⟩⟩)
    rw [← hmem, ← hdst]
    rfl
  | copyRefused hf hsrc' hbad =>
    rw [StageAt, hf] at hat
    obtain ⟨hmem, -, hpass, rfl, h0⟩ := hat
    have hle := ((passed_decompress_iff s).mp hpass).2.2 h0
    rw [hcfg, h.copying_extent] at hbad
    refine .inl ⟨_, rfl, hmem, .inr ⟨_, h.copying_extent, hle, ?_⟩⟩
    rw [hcfg, h.copying_extent]
    exact writeCause_of_refused hpass hle hbad
  | copyStored hf hsrc' hok =>
    rw [StageAt, hf] at hat
    obtain ⟨hmem, -, hpass, rfl, h0⟩ := hat
    rw [hcfg, h.copying_extent] at hok
    exact .inl (h.outputs_copied hmem (((passed_decompress_iff s).mp hpass).2.2 h0) hok)
  | commit hf => exact .inr (.inl ⟨hf, rfl⟩)
  | error hf hc => exact .inr (.inr ⟨_, hf, hc, rfl⟩)
  | stuck hf hc =>
    rw [StageAt, hf] at hat
    obtain ⟨e, he, -⟩ := hat
    rw [hc] at he
    cases he

/-! ### The selector's endings -/

theorem stage_enterCheck (op : PortOp) (s : State) : Stage op s (enterCheck s) := ⟨.refl _, rfl, rfl⟩

theorem enterCheck_busy (s : State) : (enterCheck s).busy = true := by
  unfold enterCheck State.busy
  cases s.engine.mode <;> rfl

theorem busy_iff (s : State) : s.busy = true ↔ commandOf s.engine.mode ≠ none := by
  unfold State.busy
  cases s.engine.mode <;> simp [commandOf]

theorem busy_of_goesOn {s u : State} (h : GoesOn s u) (hs : s.busy = true) : u.busy = true := by
  rw [busy_iff] at *
  rwa [h.command]

theorem Stage.busy {op : PortOp} {s u : State} (h : Stage op s u) : u.busy = true :=
  busy_of_goesOn h.goesOn (enterCheck_busy s)

theorem stage_fsmMove {op : PortOp} {s u : State} (h : Stage op s u) (hq : u.engine.request = none) :
    Stage op s (fsmMove op u) ∨ Ends op u (fsmMove op u) := by
  have hrow := fsmMove_row op hq
  obtain hgo | hends := hrow.goesOn_or_ends
  · obtain hat | hends := stageAt_of_row h hrow
    · exact .inl ⟨h.goesOn.trans hgo, hat⟩
    · exact .inr hends
  · exact .inr hends

/-- A CC command is still on its way, or it has ended from COMMIT or ERROR. -/
theorem runSelector_cases (op : PortOp) (s : State) :
    Stage op s (runSelector op s) ∨ ∃ u, Stage op s u ∧ Ends op u (runSelector op s) := by
  refine fsmRun_induction (P := Stage op s) (Q := fun t => ∃ u, Stage op s u ∧ Ends op u t)
    (fun u hu _ hq => ?_) (fun t ⟨u, _, ht⟩ => idle_of_ends ht) _ (stage_enterCheck op s)
  obtain h | h := stage_fsmMove hu hq
  · exact .inl h
  · exact .inr ⟨u, hu, h⟩

/-- Outside ERROR, what a CC command has changed of memory lies in the destination. -/
theorem Stage.sameOutside {op : PortOp} {s u : State} (h : Stage op s u) (hwf : Memory.wf s.mem = true) :
    SameOutside [dstBuf s] s.mem u.mem := by
  have hsame : u.mem = s.mem → SameOutside [dstBuf s] s.mem u.mem := fun hm => by
    rw [hm]
    exact sameOutside_refl _ _
  have hat := h.stage
  rw [StageAt] at hat
  split at hat
  · exact hat.elim
  · exact hsame hat.1
  · exact hsame hat.1
  · exact hsame hat.1
  · exact hsame hat.1
  · exact hsame hat.1
  · obtain ⟨hm, -⟩ | ⟨bs, hm, -, -, hle, -⟩ := hat
    · exact hsame hm
    · rw [hm]
      exact sameOutside_mono (sameOutside_writeBytes hwf _ bs) fun a ha => covers_dstBuf hle ha
  · obtain ⟨e, -, hm, -⟩ := hat
    exact hsame hm

/-- The command of a selector operation. -/
def selectorInstr : PortOp → Instr
  | .compress => .ccSelect
  | .decompress => .ccExpand

theorem namedBy_selectorInstr (op : PortOp) (s : State) : namedBy (selectorInstr op) s = ccNamed s := by
  cases op <;> rfl

theorem outputsOf_selectorInstr (op : PortOp) (s : State) : outputsOf (selectorInstr op) s = [dstBuf s] := by
  cases op <;> rfl

theorem commitOf_ccCommit (op : PortOp) (u : State) : CommitOf (selectorInstr op) (ccCommit op u) := by
  cases op
  · exact ⟨fun _ _ => ⟨rfl, rfl⟩, fun h => absurd rfl h, fun _ _ => rfl, fun h => absurd h (by decide)⟩
  · exact commitOf_outLen (by decide) _

theorem commandEnd_commit {op : PortOp} {s u : State} (h : Stage op s u) (hf : u.engine.fsm = .commit) :
    CommandEnd (selectorInstr op) s
      (conclude (ccNamed u) u.engine.extent (ccCommit op u) u) := by
  have hat := h.stage
  rw [StageAt, hf] at hat
  refine commandEnd_conclude (goesOn_frame h.goesOn) h.goesOn.wf (fun hwf => ?_) ?_ (commitOf_ccCommit op u)
  · rw [outputsOf_selectorInstr]
    exact h.sameOutside hwf
  · rw [outputsOf_selectorInstr]
    obtain ⟨-, hext, -⟩ | ⟨bs, -, -, hext, hle, -⟩ := hat <;> rw [hext]
    · exact fun a ha => absurd ha (covers_nil a)
    · exact fun a ha => covers_dstBuf hle ha

theorem commandEnd_error {op : PortOp} {s u : State} (h : Stage op s u) (hf : u.engine.fsm = .error) :
    CommandEnd (selectorInstr op) s (fsmError u) := by
  have hat := h.stage
  rw [StageAt, hf] at hat
  obtain ⟨e, hc, hmem, ⟨hext, he⟩ | ⟨n, hext, hle, he⟩⟩ := hat
  · have ht : fsmError u = State.fail e { s with service := u.service } := by
      simp only [fsmError, hc, hext]
      rw [goesOn_frame h.goesOn, hmem]
      rfl
    rw [ht]
    exact .precise _ (namedBy_selectorInstr op s ▸ he)
  · have ht : fsmError u = State.failLosing [dstPart s n] e { s with service := u.service } := by
      simp only [fsmError, hc, hext]
      rw [goesOn_frame h.goesOn, hmem]
      rfl
    rw [ht]
    refine .inWrite _ (fun a ha => ?_) (namedBy_selectorInstr op s ▸ he)
    rw [outputsOf_selectorInstr]
    exact covers_dstBuf hle ha

theorem commandEnd_runSelector (op : PortOp) (s : State) :
    CommandEnd (selectorInstr op) s (runSelector op s) := by
  obtain h | ⟨u, hu, ⟨hf, ht⟩ | ⟨e, hf, -, ht⟩⟩ := runSelector_cases op s
  · rw [goesOn_frame h.goesOn]
    refine .running _ (fun hwf => outputsOf_selectorInstr op s ▸ h.sameOutside hwf) fun hm => ?_
    have hb := h.busy
    rw [busy_of_idle hm] at hb
    cases hb
  · rw [ht]
    exact commandEnd_commit hu hf
  · rw [ht]
    exact commandEnd_error hu hf

/-- Every command, from any state: how it can end. -/
theorem commandEnd_of_exec {i : Instr} {s t : State} (h : exec i s = .next t) : CommandEnd i s t := by
  rw [exec_eq_unit] at h
  obtain rfl := Host.Outcome.next.inj h
  rcases hu : unitOf i with r | op
  · exact commandEnd_runRule (rule_sound hu s)
  · have hi : i = selectorInstr op := by cases i <;> cases hu <;> rfl
    rw [hi]
    exact commandEnd_runSelector op s

/-! ### Statements about every command -/

/-- Settles O10: every ending but a busy one sets DONE and leaves IE. -/
theorem completionRaisesInterrupt : Obligations.CompletionRaisesInterrupt := by
  intro i s t hexec hb
  cases commandEnd_of_exec hexec with
  | precise => exact Bool.and_true s.ie
  | inWrite => exact Bool.and_true s.ie
  | success => exact Bool.and_true s.ie
  | @running svc m g hm hg =>
    rcases hmode : g.mode with _ | ⟨c, ph⟩
    · exact absurd hmode hg
    · rw [busy_of_running (c := c) (ph := ph) hmode] at hb
      cases hb

/-- Settles O22: only a success writes result registers, and those its COMMIT names. -/
theorem commandsWriteOnlyTheirRegisters : Obligations.CommandsWriteOnlyTheirRegisters := by
  intro i s t hexec
  cases commandEnd_of_exec hexec with
  | precise =>
    exact ⟨⟨rfl, rfl, rfl, rfl, rfl, rfl, rfl, rfl, rfl, rfl, rfl, rfl, rfl, rfl⟩,
      fun _ _ => ⟨rfl, rfl⟩, fun _ => rfl, fun _ _ => rfl, fun _ => rfl, rfl, rfl, rfl, rfl⟩
  | inWrite =>
    exact ⟨⟨rfl, rfl, rfl, rfl, rfl, rfl, rfl, rfl, rfl, rfl, rfl, rfl, rfl, rfl⟩,
      fun _ _ => ⟨rfl, rfl⟩, fun _ => rfl, fun _ _ => rfl, fun _ => rfl, rfl, rfl, rfl, rfl⟩
  | running =>
    exact ⟨⟨rfl, rfl, rfl, rfl, rfl, rfl, rfl, rfl, rfl, rfl, rfl, rfl, rfl, rfl⟩,
      fun _ _ => ⟨rfl, rfl⟩, fun _ => rfl, fun _ _ => rfl, fun _ => rfl, rfl, rfl, rfl, rfl⟩
  | success svc hm hc =>
    refine ⟨⟨rfl, rfl, rfl, rfl, rfl, rfl, rfl, rfl, rfl, rfl, rfl, rfl, rfl, rfl⟩,
      fun h1 h2 => ?_, fun h1 => ?_, fun h1 h2 => ?_, fun h1 => ?_, rfl, rfl, rfl, rfl⟩
    · obtain ⟨hmin, hwidth⟩ := hc.header h1 h2
      rw [succeed_minReg, succeed_bitWidth, hmin, hwidth]
      exact ⟨rfl, rfl⟩
    · rw [succeed_algo, hc.algo h1]
      rfl
    · rw [succeed_result, hc.result h1 h2]
      rfl
    · rw [succeed_outLen, hc.outLen h1]
      rfl

/-- Settles O23: every ending changes memory in the output buffers alone. -/
theorem commandsWriteOnlyTheirOutputs : Obligations.CommandsWriteOnlyTheirOutputs := by
  intro i s t hwf hexec
  cases commandEnd_of_exec hexec with
  | precise => exact sameOutside_refl _ _
  | inWrite svc hx he => exact sameOutside_mono (failLosing_sameOutside (s := { s with service := svc }) hwf _ _) hx
  | success svc hm hc => exact hm hwf
  | running svc hm hg => exact hm hwf

theorem not_busy_running {s : State} {g : Engine} {svc : List Answer} {m : Memory} (hg : g.mode ≠ .idle) :
    State.busy { s with engine := g, service := svc, mem := m } ≠ false := by
  intro hb
  rcases hmode : g.mode with _ | ⟨c, ph⟩
  · exact hg hmode
  · rw [busy_of_running (c := c) (ph := ph) hmode] at hb
    cases hb

/-- The sub-code 0x3kk of an error (60_exceptions.md R181). -/
theorem subWithTag_div (b : BitVec 8) (k : Nat) : (subWithTag b k).toNat / 256 = b.toNat := by
  have hlt := (BitVec.ofNat 8 k).isLt
  rw [subWithTag, toNat_append_eq_add]
  omega

/-- An error raised in WRITE is BUS_WRITE or NONDETERMINISTIC. -/
theorem sub_of_writeCause {named : List Buf} {s : State} {e : Cause} (h : WriteCause named s e) :
    e.sub = 0x0041 ∨ e.sub.toNat / 256 = 3 := by
  cases e
  case busWrite => exact .inl rfl
  case nondeterministic k => exact .inr (subWithTag_div _ k)
  all_goals exact h.elim

/-- Settles O24: a precise error changes neither results nor memory, and one in WRITE has one of the two named
sub-codes. -/
theorem errorsArePrecise : Obligations.ErrorsArePrecise := by
  intro i s t hexec hb herr
  cases commandEnd_of_exec hexec with
  | precise => exact ⟨⟨rfl, rfl, rfl, rfl, rfl⟩, fun _ _ => rfl⟩
  | inWrite svc hx he =>
    refine ⟨⟨rfl, rfl, rfl, rfl, rfl⟩, fun h1 h2 => ?_⟩
    obtain h | h := sub_of_writeCause he
    · exact absurd h h1
    · exact absurd h h2
  | success => exact absurd rfl herr
  | running svc hm hg => exact absurd hb (not_busy_running hg)

/-- The sub-code base + k (60_exceptions.md R181; entry 14), for a legal tag. -/
theorem subWithTag_toNat (b : BitVec 8) {s : State} {k : Nat} (hcfg : s.cfg.wellFormed = true)
    (hk : k ≤ s.cfg.nAlgo) : (subWithTag b k).toNat = b.toNat * 256 + k := by
  have hlt := (capFields_lt_of_wellFormed hcfg).1
  rw [subWithTag, toNat_append_eq_add, BitVec.toNat_ofNat, Nat.mod_eq_of_lt (by omega)]
  rfl

/-- The rows of the tables of R180 and R181 that a legal command's errors fall in. -/
def ErrorInTables (nAlgo : Nat) (err : BitVec 8) (sub : BitVec 16) : Prop :=
  (err = 1 ∧ 0x10 ≤ sub.toNat ∧ sub.toNat ≤ 0x17) ∨
  (err = 2 ∧ 0x20 ≤ sub.toNat ∧ sub.toNat ≤ 0x25) ∨
  (err = 3 ∧ ∃ k, 1 ≤ k ∧ k ≤ nAlgo ∧
    (sub.toNat = 0x100 + k ∨ sub.toNat = 0x200 + k ∨ sub.toNat = 0x300 + k)) ∨
  (err = 5 ∧ (sub = 0x0040 ∨ sub = 0x0041))

theorem errorInTables_of_plain {n : Nat} {e : Cause} (h : PlainCause e) :
    ErrorInTables n e.kind.code e.sub := by
  cases e
  case width | count | misaligned | lenMultiple | range | overlap | offset | capacity =>
    exact .inl ⟨rfl, by decide, by decide⟩
  case negBitwidth | bitwidthRange | hdrCount | lenMismatch | fieldRange | badTag =>
    exact .inr (.inl ⟨rfl, by decide, by decide⟩)
  all_goals exact h.elim

theorem errorInTables_of_precise {named : List Buf} {s : State} {e : Cause}
    (hcfg : s.cfg.wellFormed = true) (h : PreciseCause named s e) :
    ErrorInTables s.cfg.nAlgo e.kind.code e.sub := by
  cases e
  case compressFail k =>
    obtain ⟨h1, h2⟩ := h hcfg
    exact .inr (.inr (.inl ⟨rfl, k, h1, h2, .inl (subWithTag_toNat _ hcfg h2)⟩))
  case decompressFail k =>
    obtain ⟨h1, h2⟩ := h hcfg
    exact .inr (.inr (.inl ⟨rfl, k, h1, h2, .inr (.inl (subWithTag_toNat _ hcfg h2))⟩))
  case busRead a => exact .inr (.inr (.inr ⟨rfl, .inl rfl⟩))
  all_goals exact errorInTables_of_plain h

theorem errorInTables_of_write {named : List Buf} {s : State} {e : Cause}
    (hcfg : s.cfg.wellFormed = true) (h : WriteCause named s e) :
    ErrorInTables s.cfg.nAlgo e.kind.code e.sub := by
  cases e
  case nondeterministic k =>
    obtain ⟨h1, h2⟩ := h hcfg
    exact .inr (.inr (.inl ⟨rfl, k, h1, h2, .inr (.inr (subWithTag_toNat _ hcfg h2))⟩))
  case busWrite a => exact .inr (.inr (.inr ⟨rfl, .inr rfl⟩))
  all_goals exact h.elim

/-- Settles O25: the codes of the two kinds of error, and ERR_SUB kept by a success. -/
theorem outcomeCodesAreTheTables : Obligations.OutcomeCodesAreTheTables := by
  intro i s t hcfg hexec hb
  cases commandEnd_of_exec hexec with
  | precise svc he => exact .inr (errorInTables_of_precise hcfg he)
  | inWrite svc hx he => exact .inr (errorInTables_of_write hcfg he)
  | success => exact .inl ⟨rfl, rfl⟩
  | running svc hm hg => exact absurd hb (not_busy_running hg)

/-- The address of an error is recorded for a bus error alone. -/
theorem address_of_code {e : Cause} (h : e.kind.code ≠ 5) : e.address = none := by
  by_contra hne
  exact h (address_code hne)

/-- A bus error records a refused byte of the named buffers. -/
theorem refuses_of_code {named : List Buf} {s : State} {e : Cause} {d : Word}
    (he : PreciseCause named s e ∨ WriteCause named s e) (hcode : e.kind.code = 5) :
    Refuses s named (e.address.getD d) := by
  cases e with
  | busRead a =>
    obtain he | he := he
    · exact he
    · exact he.elim
  | busWrite a =>
    obtain he | he := he
    · exact he.elim
    · exact he
  | _ => simp [Cause.kind, ErrKind.code] at hcode

theorem errAddr_of_error {named : List Buf} {s : State} {e : Cause} {d : Word}
    (hcfg : s.cfg.wellFormed = true) (he : PreciseCause named s e ∨ WriteCause named s e) :
    (e.kind.code = 5 → mapped s.cfg (e.address.getD d).toNat = false ∧
        ∃ b ∈ named, hasByte b (e.address.getD d).toNat = true) ∧
      (e.kind.code ≠ 5 → e.address.getD d = d) := by
  refine ⟨fun hcode => ?_, fun hcode => by rw [address_of_code hcode]; rfl⟩
  obtain ⟨hbyte, hmap⟩ := refuses_of_code (d := d) he hcode hcfg
  exact ⟨hmap, hbyte⟩

/-- Settles O26: a bus error names a byte of a named buffer, and no other ending writes ERR_ADDR. -/
theorem busErrorReportsARefusedByte : Obligations.BusErrorReportsARefusedByte := by
  intro i s t hcfg hexec hb
  cases commandEnd_of_exec hexec with
  | precise svc he => exact errAddr_of_error hcfg (.inl he)
  | inWrite svc hx he => exact errAddr_of_error hcfg (.inr he)
  | success => exact ⟨fun h => absurd h (show (0 : BitVec 8) ≠ 5 by decide), fun _ => rfl⟩
  | running svc hm hg => exact absurd hb (not_busy_running hg)

end Sys2Proof.Proofs
end

section
/-!
PROOF. Runs of the engine: a rule is its four phases (30_encoding.md R93, R96), a CC command the moves of its
FSM (43_channel_compressor.md R162), and a CC command that is always answered completes within N_ALGO + 4 of
them (30_encoding.md R95). No move lowers the count of resets (70_reset_and_hazards.md R201).
-/

namespace Sys2Proof.Proofs

open Sys2Proof Sys2Proof.Machine Sys2Proof.Safety Sys2Proof.Laws

/-! ### Moves of the engine -/

theorem mode_of_not_busy {s : State} (h : s.busy = false) : s.engine.mode = .idle := by
  rcases hm : s.engine.mode with _ | ⟨c, ph⟩
  · rfl
  · rw [busy_of_running hm] at h
    cases h

theorem engineMove_of_idle {s : State} (h : s.busy = false) : engineMove s = s := by
  simp only [engineMove, mode_of_not_busy h]

theorem engineMoves_of_idle {s : State} (h : s.busy = false) (n : Nat) : engineMoves n s = s := by
  induction n with
  | zero => rfl
  | succ n ih => rw [engineMoves, engineMove_of_idle h, ih]

theorem engineMove_of_rule {s : State} {i : Instr} {r : Rule} {ph : Phase} (hu : unitOf i = .rule r)
    (hm : s.engine.mode = .running (encode i) ph) : engineMove s = ruleMove r ph s := by
  simp only [engineMove, hm, decode_encode, hu]

theorem engineMove_of_selector {s : State} {i : Instr} {op : PortOp} (hu : unitOf i = .selector op)
    (hc : commandOf s.engine.mode = some (encode i)) : engineMove s = fsmMove op s := by
  obtain ⟨ph, hm⟩ := commandOf_eq_some hc
  simp only [engineMove, hm, decode_encode, hu]

/-! ### A rule is its four phases -/

/-- READ does not depend on the engine. -/
theorem readPhase_engine {i : Instr} {r : Rule} (hu : unitOf i = .rule r) (s : State) (g : Engine) :
    readPhase r { s with engine := g } = readPhase r s := by
  cases i <;> cases hu <;> rfl

/-- The named buffers depend on the registers alone. -/
theorem named_engine_mem {i : Instr} {r : Rule} (hu : unitOf i = .rule r) (s : State) (g : Engine)
    (m : Memory) : r.named { s with engine := g, mem := m } = r.named s := by
  cases i <;> cases hu <;> rfl

/-- A completion discards the engine, but for the race flag. -/
theorem conclude_engine {named x : List Buf} {c : Commit} {s : State} {g : Engine}
    (h : g.raced = s.engine.raced) : conclude named x c { s with engine := g } = conclude named x c s := by
  rw [conclude, conclude, isRaced_congr (s := s) (t := { s with engine := g }) rfl h]
  split <;> rfl

theorem busy_fail (e : Cause) (s : State) : (s.fail e).busy = false := rfl

theorem busy_conclude (named x : List Buf) (c : Commit) (s : State) :
    (conclude named x c s).busy = false := by
  unfold conclude
  split <;> rfl

theorem ruleMove_validate_of_check {r : Rule} {s : State} {e : Cause}
    (h : firstFailure (r.checks s) = some e) : ruleMove r .validate s = s.fail e := by
  simp only [ruleMove, h]

/-- The engine in READ. -/
def inRead (s : State) : State :=
  { s with engine := { s.engine with mode := s.engine.mode.atPhase .read } }

theorem ruleMove_validate_of_pass {r : Rule} {s : State} (h : firstFailure (r.checks s) = none) :
    ruleMove r .validate s = inRead s := by
  simp only [ruleMove, h, inRead]

/-- The engine in WRITE with what READ has prepared. -/
def inWrite (job : Job) (s : State) : State :=
  { s with
    engine :=
      { s.engine with
        mode := s.engine.mode.atPhase .write, loop := job.loop, job := job, extent := extentOf job.out } }

theorem ruleMove_read_of_error {r : Rule} {s : State} {e : Cause} (h : readPhase r s = .error e) :
    ruleMove r .read s = s.fail e := by
  simp only [ruleMove, h]

theorem ruleMove_read_of_job {r : Rule} {s : State} {job : Job} (h : readPhase r s = .ok job) :
    ruleMove r .read s = inWrite job s := by
  simp only [ruleMove, h, inWrite]

/-- The engine in COMMIT, the bytes stored. -/
def inCommit (s : State) : State :=
  { s with
    mem := storePieces s.mem s.engine.job.out
    engine := { s.engine with mode := s.engine.mode.atPhase .commit } }

theorem ruleMove_write_of_refused {r : Rule} {s : State} (h : refusedIn s.cfg s.engine.extent ≠ []) :
    ruleMove r .write s = failWrite s.engine.extent s := by
  simp only [ruleMove]
  split
  next h0 => exact absurd h0 h
  next => rfl

theorem ruleMove_write_of_admitted {r : Rule} {s : State} (h : refusedIn s.cfg s.engine.extent = []) :
    ruleMove r .write s = inCommit s := by
  simp only [ruleMove, h, inCommit]

/-- From the acceptance on, four moves of the engine make the atomic command. -/
theorem engineMoves_of_rule {i : Instr} {r : Rule} {s : State} (hu : unitOf i = .rule r)
    (hm : s.engine.mode = .running (encode i) .validate) (n : Nat) :
    engineMoves (n + 4) s = runRule r s := by
  have hmRead : (inRead s).engine.mode = .running (encode i) .read := by simp only [inRead, hm, Mode.atPhase]
  have hrule := runRule_cases r s
  rw [engineMoves, engineMove_of_rule hu hm]
  obtain ⟨e, hc | ⟨hc, hr⟩, ht⟩ | ⟨job, hc, hr, hw⟩ := hrule
  · rw [ruleMove_validate_of_check hc, engineMoves_of_idle (busy_fail e s), ht]
  · have hr' : readPhase r (inRead s) = .error e := (readPhase_engine hu s _).trans hr
    rw [ruleMove_validate_of_pass hc, engineMoves, engineMove_of_rule hu hmRead, ruleMove_read_of_error hr',
      engineMoves_of_idle (busy_fail e _), ht]
    rfl
  · have hr' : readPhase r (inRead s) = .ok job := (readPhase_engine hu s _).trans hr
    have hmWrite : (inWrite job (inRead s)).engine.mode = .running (encode i) .write := by
      simp only [inWrite, hmRead, Mode.atPhase]
    rw [ruleMove_validate_of_pass hc, engineMoves, engineMove_of_rule hu hmRead, ruleMove_read_of_job hr',
      engineMoves, engineMove_of_rule hu hmWrite]
    obtain ⟨hw, ht⟩ | ⟨hw, ht⟩ := hw
    · rw [ruleMove_write_of_refused (s := inWrite job (inRead s)) hw, engineMoves_of_idle rfl, ht]
      rfl
    · have hmCommit : (inCommit (inWrite job (inRead s))).engine.mode = .running (encode i) .commit := by
        simp only [inCommit, hmWrite, Mode.atPhase]
      rw [ruleMove_write_of_admitted (s := inWrite job (inRead s)) hw, engineMoves,
        engineMove_of_rule hu hmCommit, ruleMove, engineMoves_of_idle (busy_conclude _ _ _ _), ht,
        show r.named (inCommit (inWrite job (inRead s))) = r.named s from named_engine_mem hu s _ _]
      exact conclude_engine (s := { s with mem := storePieces s.mem job.out }) rfl

/-! ### A CC command is the moves of its FSM -/

theorem fsmRun_of_idle {op : PortOp} {s : State} (h : s.busy = false) (n : Nat) : fsmRun op n s = s := by
  cases n with
  | zero => rfl
  | succ n => simp [fsmRun, h]

theorem fsmRun_of_waiting {op : PortOp} {s : State} (h : s.engine.request.isSome = true) (n : Nat) :
    fsmRun op n s = s := by
  cases n with
  | zero => rfl
  | succ n => simp [fsmRun, h]

theorem fsmRun_succ {op : PortOp} {s : State} (hb : s.busy = true) (hq : s.engine.request = none) (n : Nat) :
    fsmRun op (n + 1) s = fsmRun op n (fsmMove op s) := by
  simp [fsmRun, hb, hq]

theorem busy_of_command {s : State} {c : Word} (h : commandOf s.engine.mode = some c) : s.busy = true := by
  rw [busy_iff, h]
  exact Option.some_ne_none c

theorem engineMoves_eq_fsmRun {i : Instr} {op : PortOp} (hu : unitOf i = .selector op) (n : Nat) {s : State}
    (hc : commandOf s.engine.mode = some (encode i)) : engineMoves n s = fsmRun op n s := by
  induction n generalizing s with
  | zero => rfl
  | succ n ih =>
    rw [engineMoves, engineMove_of_selector hu hc]
    rcases hq : s.engine.request with _ | q
    · rw [fsmRun_succ (busy_of_command hc) hq]
      obtain hgo | hends := (fsmMove_row op hq).goesOn_or_ends
      · exact ih (hgo.command.trans hc)
      · rw [engineMoves_of_idle (idle_of_ends hends), fsmRun_of_idle (idle_of_ends hends)]
    · have hwait : s.engine.request.isSome = true := by rw [hq]; rfl
      rw [fsmMove_of_waiting hwait, ih hc, fsmRun_of_waiting hwait, fsmRun_of_waiting hwait]

/-- Right after its acceptance a CC command is in CHECK. -/
theorem enterCheck_of_accepted {op : PortOp} {s : State} (h : AcceptedNow (encode (selectorInstr op)) s) :
    enterCheck s = s := by
  have hfsm : fsmOnAccept (encode (selectorInstr op)) = .check := by
    cases op <;> rw [selectorInstr, fsmOnAccept, decode_encode]
  have hengine : (enterCheck s).engine = s.engine := by
    rw [AcceptedNow, hfsm] at h
    rw [enterCheck, h]
  calc enterCheck s = { s with engine := (enterCheck s).engine } := rfl
    _ = s := by rw [hengine]

theorem eq_selectorInstr {i : Instr} {op : PortOp} (hu : unitOf i = .selector op) : i = selectorInstr op := by
  cases i <;> cases hu <;> rfl

theorem unitOf_selectorInstr (op : PortOp) : unitOf (selectorInstr op) = .selector op := by cases op <;> rfl

/-- Settles O9: four phases for a rule, N_ALGO + 4 transitions at most for a CC command. -/
theorem phasesAgreeWithAtomicCommand : Obligations.PhasesAgreeWithAtomicCommand := by
  intro i s _ hacc
  have hm : s.engine.mode = .running (encode i) .validate := by rw [hacc]
  rw [exec_eq_unit]
  congr 1
  rcases hu : unitOf i with r | op
  · exact (engineMoves_of_rule hu hm _).symm
  · obtain rfl := eq_selectorInstr hu
    have hc : commandOf s.engine.mode = some (encode (selectorInstr op)) := by rw [hm]; rfl
    rw [engineMoves_eq_fsmRun hu _ hc]
    exact congrArg (fsmRun op _) (enterCheck_of_accepted hacc)

/-! ### Every answered command completes (R95) -/

/-- The moves that are enough for the rest of a CC command. -/
def movesLeft (u : State) : Nat :=
  match u.engine.fsm with
  | .idle => u.cfg.nAlgo + 5
  | .check => u.cfg.nAlgo + 4
  | .size => u.cfg.nAlgo - u.engine.k + 4
  | .pick => 3
  | .emit => 2
  | .copy => 2
  | .commit => 1
  | .error => 1

/-- The requests that may have been sent: one for each tag before k in SIZE, N_ALGO before EMIT. -/
def SentAtMost (u : State) (j : Nat) : Prop :=
  match u.engine.fsm with
  | .check => j = 0
  | .size => j + 1 ≤ u.engine.k ∧ u.engine.k ≤ u.cfg.nAlgo
  | .pick | .emit => j ≤ u.cfg.nAlgo
  | _ => True

/-- A CC command on its way, every request so far answered. -/
structure Prompt (op : PortOp) (s u : State) : Prop where
  stage : Stage op s u
  request : u.engine.request = none
  sent : ∃ j, u.service = s.service.drop j ∧ SentAtMost u j

theorem Prompt.cfg {op : PortOp} {s u : State} (h : Prompt op s u) : u.cfg = s.cfg := by
  rw [goesOn_frame h.stage.goesOn]

/-- The FSM's and the service's part of what a row does to a prompt command. -/
def Progress (s u t : State) : Prop :=
  t.engine.request = none ∧ movesLeft t < movesLeft u ∧ ∃ j, t.service = s.service.drop j ∧ SentAtMost t j

theorem consider_service (op : PortOp) (len : Nat) (u : State) :
    (consider op len u).service = u.service := by
  unfold consider
  split <;> rfl

theorem consider_request (op : PortOp) (len : Nat) (u : State) :
    (consider op len u).engine.request = u.engine.request := by
  unfold consider
  split <;> rfl

theorem consider_cfg (op : PortOp) (len : Nat) (u : State) : (consider op len u).cfg = u.cfg := by
  unfold consider
  split <;> rfl

/-- The last move of a command is ahead in COMMIT and in ERROR. -/
theorem progress_of_last {s u t : State} {j : Nat} (hf : t.engine.fsm = .commit ∨ t.engine.fsm = .error)
    (hq : t.engine.request = none) (hleft : 1 < movesLeft u) (hj : t.service = s.service.drop j) :
    Progress s u t := by
  refine ⟨hq, ?_, j, hj, ?_⟩
  · obtain hf | hf := hf <;> rwa [show movesLeft t = 1 by rw [movesLeft, hf]]
  · obtain hf | hf := hf <;> rw [SentAtMost, hf] <;> trivial

/-- The first tag is one of those the service knows. -/
theorem firstTag_le {op : PortOp} {s : State} (hcfg : s.cfg.wellFormed = true)
    (h : firstFailure (ccChecks op s) = none) (hc : ¬Copies op s) (hl : s.srcLen.toNat ≠ 0) :
    1 ≤ firstTag op s ∧ firstTag op s ≤ s.cfg.nAlgo :=
  tagOk_firstTag ⟨h, hl, hc⟩ hcfg

theorem drop_drop_one {α : Type} (l : List α) (j : Nat) : (l.drop j).drop 1 = l.drop (j + 1) := by
  rw [List.drop_drop]

/-- Every row of an answered command completes it or comes closer to the completion. -/
theorem progress_of_row {op : PortOp} {s u t : State} (hcfg : s.cfg.wellFormed = true)
    (hans : ∀ j, j ≤ s.cfg.nAlgo → ∀ q, answerAt s j q ≠ none) (h : Prompt op s u) (hrow : Row op u t) :
    Progress s u t ∨ Ends op u t := by
  have hc := h.cfg
  have hstage := h.stage.stage
  obtain ⟨-, hq, j, hj, hsent⟩ := h
  have hdrop : u.service.drop 1 = s.service.drop (j + 1) := by rw [hj, drop_drop_one]
  have hanswered : ∀ q, j ≤ s.cfg.nAlgo → answerAt u 0 q ≠ none := fun q hle => by
    rw [answerAt_drop s u j 0 q hj]
    exact hans j hle q
  cases hrow with
  | start hf =>
    rw [StageAt, hf] at hstage
    exact hstage.elim
  | invalid hf =>
    exact .inl (progress_of_last (.inr rfl) hq (by simp [movesLeft, hf]) hj)
  | empty hf =>
    exact .inl (progress_of_last (.inl rfl) hq (by simp [movesLeft, hf]) hj)
  | size hf hpass hcopy hl =>
    obtain ⟨h1, h2⟩ := firstTag_le (hc ▸ hcfg) hpass hcopy hl
    rw [SentAtMost, hf] at hsent
    refine .inl ⟨hq, ?_, j, hj, ?_⟩
    · simp only [movesLeft, hf, toSize]
      omega
    · simp only [SentAtMost, toSize]
      omega
  | copy hf =>
    exact .inl ⟨hq, by simp [movesLeft, hf, toCopy], j, hj, trivial⟩
  | sourceRefused hf =>
    refine .inl (progress_of_last (.inr rfl) hq ?_ hj)
    obtain hf | hf := hf <;> simp [movesLeft, hf]
  | sizeWaits hf hin ha =>
    rw [SentAtMost, hf] at hsent
    exact absurd ha (hanswered _ (by rw [← hc]; omega))
  | sizeFails hf =>
    exact .inl (progress_of_last (.inr rfl) hq (by simp [movesLeft, hf]) hdrop)
  | @sizeNext hf bs r hin ha hop hk =>
    rw [SentAtMost, hf] at hsent
    have hfsm : (nextTag (consider op r.length (asked bs u))).engine.fsm = .size :=
      (consider_fsm op r.length (asked bs u)).trans hf
    have hk' : (nextTag (consider op r.length (asked bs u))).engine.k = u.engine.k + 1 :=
      congrArg (· + 1) (consider_k op r.length (asked bs u))
    have hcfg' : (nextTag (consider op r.length (asked bs u))).cfg = u.cfg :=
      consider_cfg op r.length (asked bs u)
    refine .inl ⟨(consider_request _ _ _).trans hq, ?_, j + 1, (consider_service _ _ _).trans hdrop, ?_⟩
    · rw [movesLeft, movesLeft, hfsm, hf, hk', hcfg']
      simp only
      omega
    · rw [SentAtMost, hfsm, hk', hcfg']
      simp only
      omega
  | @sizeLast hf bs r hin ha hk =>
    rw [SentAtMost, hf] at hsent
    refine .inl ⟨(consider_request _ _ _).trans hq, by simp [movesLeft, hf, toPick], j + 1,
      (consider_service _ _ _).trans hdrop, ?_⟩
    rw [SentAtMost, show (toPick (consider op r.length (asked bs u))).engine.fsm = .pick from rfl,
      show (toPick (consider op r.length (asked bs u))).cfg = u.cfg from consider_cfg _ _ (asked bs u)]
    simp only
    omega
  | short hf =>
    exact .inl (progress_of_last (.inr rfl) hq (by simp [movesLeft, hf]) hj)
  | emit hf =>
    rw [SentAtMost, hf] at hsent
    exact .inl ⟨hq, by simp [movesLeft, hf, toEmit], j, hj, hsent⟩
  | emitWaits hf ha =>
    rw [SentAtMost, hf] at hsent
    exact absurd ha (hanswered _ (hc ▸ hsent))
  | emitDiffers hf => exact .inl (progress_of_last (.inr rfl) hq (by simp [movesLeft, hf]) hdrop)
  | emitRefused hf => exact .inl (progress_of_last (.inr rfl) hq (by simp [movesLeft, hf]) hdrop)
  | emitStored hf => exact .inl (progress_of_last (.inl rfl) hq (by simp [movesLeft, hf]) hdrop)
  | copyRefused hf => exact .inl (progress_of_last (.inr rfl) hq (by simp [movesLeft, hf]) hj)
  | copyStored hf => exact .inl (progress_of_last (.inl rfl) hq (by simp [movesLeft, hf]) hj)
  | commit hf => exact .inr (.inl ⟨hf, rfl⟩)
  | error hf hcause => exact .inr (.inr ⟨_, hf, hcause, rfl⟩)
  | stuck hf hcause =>
    rw [StageAt, hf] at hstage
    obtain ⟨e, he, -⟩ := hstage
    rw [hcause] at he
    cases he

/-- A CC command that is always answered completes within the moves that are left to it. -/
theorem fsmRun_completes {op : PortOp} {s : State} (hcfg : s.cfg.wellFormed = true)
    (hans : ∀ j, j ≤ s.cfg.nAlgo → ∀ q, answerAt s j q ≠ none) (n : Nat) {u : State} (h : Prompt op s u)
    (hn : movesLeft u ≤ n) : (fsmRun op n u).busy = false := by
  induction n generalizing u with
  | zero =>
    exfalso
    revert hn
    unfold movesLeft
    split <;> omega
  | succ n ih =>
    rw [fsmRun_succ h.stage.busy h.request]
    have hrow := fsmMove_row op h.request
    have hends : Ends op u (fsmMove op u) → (fsmRun op n (fsmMove op u)).busy = false := fun hends => by
      rw [fsmRun_of_idle (idle_of_ends hends)]
      exact idle_of_ends hends
    obtain ⟨hq, hlt, hsent⟩ | hdone := progress_of_row hcfg hans h hrow
    · obtain hstage | hdone := stage_fsmMove h.stage h.request
      · exact ih ⟨hstage, hq, hsent⟩ (by omega)
      · exact hends hdone
    · exact hends hdone

theorem busy_runSelector_of_answered {op : PortOp} {s : State} (hcfg : s.cfg.wellFormed = true)
    (hans : ∀ j, j ≤ s.cfg.nAlgo → ∀ q, answerAt s j q ≠ none) : (runSelector op s).busy = false :=
  fsmRun_completes hcfg hans _ ⟨stage_enterCheck op s, rfl, 0, rfl, rfl⟩ le_rfl

theorem busy_runRule (r : Rule) (s : State) : (runRule r s).busy = false := by
  obtain ⟨e, -, ht⟩ | ⟨job, -, -, ⟨-, ht⟩ | ⟨-, ht⟩⟩ := runRule_cases r s <;> rw [ht]
  · rfl
  · rfl
  · exact busy_conclude _ _ _ _

/-- A command that is not left running has set DONE. -/
theorem CommandEnd.done {i : Instr} {s t : State} (h : CommandEnd i s t) (hb : t.busy = false) :
    t.done = true := by
  cases h with
  | precise => rfl
  | inWrite => rfl
  | success => rfl
  | running svc hm hg => exact absurd hb (not_busy_running hg)

/-- Settles O8: a rule always completes, a CC command does when it is answered. -/
theorem commandsComplete : Obligations.CommandsComplete := by
  intro i s hcfg hans
  have hexec := exec_eq_unit i s
  refine ⟨_, hexec, ?_, (commandEnd_of_exec hexec).done ?_⟩ <;>
  · cases unitOf i with
    | rule r => exact busy_runRule r s
    | selector op => exact busy_runSelector_of_answered hcfg hans

/-! ### Resets are counted, and what comes late is discarded (70_reset_and_hazards.md R201) -/

theorem CommandEnd.resets {i : Instr} {s t : State} (h : CommandEnd i s t) : t.resets = s.resets := by
  cases h <;> rfl

theorem GoesOn.resets {s t : State} (h : GoesOn s t) : t.resets = s.resets := by
  rw [h.frame]

theorem resets_conclude (named x : List Buf) (c : Commit) (s : State) :
    (conclude named x c s).resets = s.resets := by
  unfold conclude
  split <;> rfl

theorem resets_fsmMove (op : PortOp) (s : State) : (fsmMove op s).resets = s.resets := by
  rcases hq : s.engine.request with _ | q
  · obtain hgo | ⟨-, ht⟩ | ⟨e, -, hc, ht⟩ := (fsmMove_row op hq).goesOn_or_ends
    · exact hgo.resets
    · rw [ht, resets_conclude]
    · rw [ht]
      obtain ⟨-, ht⟩ | ⟨-, ht⟩ := fsmError_cases hc <;> rw [ht] <;> rfl
  · rw [fsmMove_of_waiting (by rw [hq]; rfl)]

theorem resets_ruleMove (r : Rule) (ph : Phase) (s : State) : (ruleMove r ph s).resets = s.resets := by
  cases ph with
  | validate => simp only [ruleMove]; split <;> rfl
  | read => simp only [ruleMove]; split <;> rfl
  | write => simp only [ruleMove]; split <;> rfl
  | commit => exact resets_conclude _ _ _ s

theorem resets_engineMove (s : State) : (engineMove s).resets = s.resets := by
  unfold engineMove
  split
  · rfl
  · split
    · rfl
    · split
      · exact resets_ruleMove _ _ s
      · exact resets_fsmMove _ s

theorem resets_writeIdle (r : Reg) (v : Word) (s : State) : (writeIdle r v s).resets = s.resets := by
  cases r <;> rfl

theorem resets_writeCtrl (v : Word) (s : State) : s.resets ≤ (writeCtrl v s).resets := by
  unfold writeCtrl
  split
  · exact Nat.le_succ _
  · exact le_rfl

theorem resets_writeOffset (off : Nat) (v : Word) (s : State) : s.resets ≤ (writeOffset off v s).resets := by
  unfold writeOffset
  split
  · exact resets_writeCtrl v s
  · exact le_rfl
  · split
    · exact le_rfl
    · exact (resets_writeIdle _ v s).ge
  · split <;> exact le_rfl

theorem resets_hostWrite (addr size : Nat) (v : Word) (s : State) :
    s.resets ≤ (hostWrite addr size v s).resets := by
  unfold hostWrite
  split
  · exact le_rfl
  · exact le_rfl
  · exact resets_writeOffset _ v s

theorem resets_hostRead (addr size : Nat) (s : State) : (hostRead addr size s).resets = s.resets := by
  unfold hostRead
  split <;> rfl

theorem resets_applyInput {i : Input} {s t : State} (h : applyInput i s = .next t) :
    s.resets ≤ t.resets := by
  cases i <;> simp only [applyInput] at h
  case regRead addr size => exact Host.Outcome.next.inj h ▸ (resets_hostRead addr size s).ge
  case regWrite addr size v => exact Host.Outcome.next.inj h ▸ resets_hostWrite addr size v s
  case engine => exact Host.Outcome.next.inj h ▸ (resets_engineMove s).ge
  case answer n a => exact Host.Outcome.next.inj h ▸ (goesOn_serviceAnswer n a s).resets.ge
  case memRead addr len =>
    split at h
    · exact Host.Outcome.next.inj h ▸ le_rfl
    · cases h
  case memWrite addr bs =>
    split at h
    · exact Host.Outcome.next.inj h ▸ le_rfl
    · cases h
  case powerOn => exact Host.Outcome.next.inj h ▸ Nat.le_succ _

theorem resets_step {s t : State} (h : step s = .next t) : s.resets ≤ t.resets := by
  obtain ⟨i, rest, -, hs⟩ | hs | ⟨c, i, -, -, hs⟩ | ⟨c, ph, e, -, hs⟩ | hs := step_cases s <;> rw [hs] at h
  · exact resets_applyInput (s := { s with inputs := rest }) h
  · exact Host.Outcome.next.inj h ▸ le_rfl
  · exact (commandEnd_of_exec h).resets.ge
  · exact Host.Outcome.next.inj h ▸ le_rfl
  · exact Host.Outcome.next.inj h ▸ (resets_engineMove s).ge

theorem request_sizeAnswer (op : PortOp) (r : Response) (s : State) :
    (sizeAnswer op r s).engine.request = s.engine.request := by
  cases r with
  | fail => rfl
  | ok bs =>
    by_cases hk : op = .compress ∧ s.engine.k < s.cfg.nAlgo
    · obtain ⟨rfl, hk⟩ := hk
      rw [sizeAnswer_next hk]
      exact consider_request _ _ s
    · rw [sizeAnswer_last fun h => not_lt.mp fun h' => hk ⟨h, h'⟩]
      exact consider_request _ _ s

theorem request_emitAnswer (r : Response) (s : State) :
    (emitAnswer r s).engine.request = s.engine.request := by
  by_cases hr : Differs r s
  · rw [emitAnswer_of_differs hr]
    rfl
  · simp only [Differs, not_forall, not_not] at hr
    obtain ⟨bs, rfl, hr⟩ := hr
    rw [emitAnswer_of_same hr]
    by_cases h : refusedIn s.cfg s.engine.extent = []
    · rw [storeOutput_of_admitted h]
      rfl
    · rw [storeOutput_of_refused h]
      rfl

/-- A response to the outstanding request is taken: the request is outstanding no longer. -/
theorem request_serviceAnswer (r : Response) (s : State) :
    (serviceAnswer s.resets (.gives r) s).engine.request = none := by
  rcases hq : s.engine.request with _ | q
  · rwa [serviceAnswer_of_none hq]
  · rw [serviceAnswer_current]
    simp only [takeAnswer, hq, resolve]
    split
    · exact request_sizeAnswer _ _ _
    · exact request_emitAnswer _ _
    all_goals rfl

/-- Settles O21: resets are counted, and a response is taken only for the request of the present count. -/
theorem lateResponseIsDiscarded : Obligations.LateResponseIsDiscarded := by
  refine ⟨fun s v rest h => ?_, fun s t h => resets_step h, fun s n a rest h => ⟨fun hn => ?_, fun hq => ?_, ?_⟩⟩
  · obtain ⟨r, hs⟩ := step_reset h
    exact ⟨_, hs, rfl, Nat.lt_succ_self _⟩
  · rw [step_of_input h, applyInput, serviceAnswer_of_abandoned (s := { s with inputs := rest }) hn.ne]
  · rw [step_of_input h, applyInput, serviceAnswer_of_none (s := { s with inputs := rest }) hq]
  · rintro r rfl rfl
    exact ⟨_, step_of_input h, request_serviceAnswer r { s with inputs := rest }⟩

end Sys2Proof.Proofs
end

section
/-!
PROOF. The runs of CC.SELECT and CC.EXPAND (43_channel_compressor.md R161 to R164): the FSM followed from CHECK
through SIZE to PICK, and from PICK through EMIT to the completion, with the requests counted.
-/

namespace Sys2Proof.Proofs

open Sys2Proof Sys2Proof.Machine Sys2Proof.Safety Sys2Proof.Laws

/-! ### States that a run reaches -/

/-- After `n` moves and `d` requests, all answered, the CC command that starts in `s` is in `u`, with memory `m`. -/
structure Reaches (op : PortOp) (s : State) (n d : Nat) (m : Memory) (u : State) : Prop where
  run : ∀ j, fsmRun op (n + j) (enterCheck s) = fsmRun op j u
  goesOn : GoesOn (enterCheck s) u
  request : u.engine.request = none
  service : u.service = s.service.drop d
  mem : u.mem = m

variable {op : PortOp} {s u : State} {n d : Nat} {m : Memory}

theorem reaches_check (op : PortOp) (s : State) : Reaches op s 0 0 s.mem (enterCheck s) :=
  ⟨fun j => by rw [Nat.zero_add], .refl _, rfl, rfl, rfl⟩

theorem Reaches.frame (h : Reaches op s n d m u) :
    u = { s with engine := u.engine, service := s.service.drop d, mem := m } := by
  rw [← h.service, ← h.mem]
  exact goesOn_frame h.goesOn

theorem Reaches.busy (h : Reaches op s n d m u) : u.busy = true := busy_of_goesOn h.goesOn (enterCheck_busy s)

/-- One more move. -/
theorem Reaches.move {v : State} {d' : Nat} {m' : Memory} (h : Reaches op s n d m u) (hv : fsmMove op u = v)
    (hgo : GoesOn u v) (hq : v.engine.request = none) (hd : v.service = s.service.drop d') (hm : v.mem = m') :
    Reaches op s (n + 1) d' m' v := by
  refine ⟨fun j => ?_, h.goesOn.trans hgo, hq, hd, hm⟩
  rw [Nat.add_assoc, Nat.add_comm 1 j, h.run, fsmRun_succ h.busy h.request, hv]

/-- The service after one more request. -/
theorem Reaches.service_next (h : Reaches op s n d m u) : u.service.drop 1 = s.service.drop (d + 1) := by
  rw [h.service, drop_drop_one]

/-- The next request is answered as the service says. -/
theorem Reaches.answer (h : Reaches op s n d m u) (q : Request) : answerAt u 0 q = answerAt s d q :=
  answerAt_drop s u d 0 q h.service

/-- The move after which the command rests is the last of the run. -/
theorem Reaches.runSelector_eq (h : Reaches op s n d m u) (hn : n < s.cfg.nAlgo + 4)
    (hrest : (fsmMove op u).busy = false ∨ (fsmMove op u).engine.request.isSome = true) :
    runSelector op s = fsmMove op u := by
  obtain ⟨j, hj⟩ := Nat.exists_eq_add_of_lt hn
  rw [runSelector, hj, Nat.add_assoc, h.run, fsmRun_succ h.busy h.request]
  obtain hb | hq := hrest
  · exact fsmRun_of_idle hb j
  · exact fsmRun_of_waiting hq j

/-- From ERROR with no extent: the error completes the command and nothing else has changed. -/
theorem Reaches.runSelector_of_error {e : Cause} (h : Reaches op s n d s.mem u) (hn : n < s.cfg.nAlgo + 4)
    (hf : u.engine.fsm = .error) (hc : u.engine.cause = some e) (hx : u.engine.extent = []) :
    runSelector op s = State.fail e { s with service := s.service.drop d } := by
  have hmove : fsmMove op u = u.fail e := by
    rw [fsmMove, h.request, Option.isSome_none, if_neg (by decide), hf]
    simp only [fsmError, hc, hx]
  rw [h.runSelector_eq hn (.inl (by rw [hmove]; rfl)), hmove, h.frame]
  rfl

/-- From ERROR with an extent: the extent is lost. -/
theorem Reaches.runSelector_of_errorInWrite {e : Cause} {b : Buf} (h : Reaches op s n d s.mem u)
    (hn : n < s.cfg.nAlgo + 4) (hf : u.engine.fsm = .error) (hc : u.engine.cause = some e)
    (hx : u.engine.extent = [b]) :
    runSelector op s = State.failLosing [b] e { s with service := s.service.drop d } := by
  have hmove : fsmMove op u = u.failLosing [b] e := by
    rw [fsmMove, h.request, Option.isSome_none, if_neg (by decide), hf]
    simp only [fsmError, hc, hx]
  rw [h.runSelector_eq hn (.inl (by rw [hmove]; rfl)), hmove, h.frame]
  rfl

/-- COMMIT writes the tag and the length of the choice. -/
theorem ccCommit_eq_setBest {k len : Nat} (hk : u.engine.bestK = k) (hl : u.engine.bestLen = some len) :
    ccCommit op u = ccCommit op (setBest k len s) := by
  simp only [ccCommit, setBest, hk, hl]

/-- From COMMIT without a race: the registers of COMMIT are written. -/
theorem Reaches.runSelector_of_commit {k len : Nat} (h : Reaches op s n d m u) (hn : n < s.cfg.nAlgo + 4)
    (hf : u.engine.fsm = .commit) (hk : u.engine.bestK = k) (hl : u.engine.bestLen = some len)
    (hquiet : isRaced [srcBuf s, dstBuf s] s = false) :
    runSelector op s =
      State.succeed (ccCommit op (setBest k len s)) { s with service := s.service.drop d, mem := m } := by
  have hmove : fsmMove op u = conclude (ccNamed u) u.engine.extent (ccCommit op u) u := by
    rw [fsmMove, h.request, Option.isSome_none, if_neg (by decide), hf]
  have hnamed : ccNamed u = ccNamed s := by
    rw [h.frame]
    rfl
  have hcfg : u.cfg = s.cfg := by rw [h.frame]
  have hquiet' : isRaced (ccNamed u) u = false := by
    rw [hnamed, isRaced_congr hcfg h.goesOn.raced]
    exact hquiet
  rw [conclude_of_quiet hquiet'] at hmove
  rw [h.runSelector_eq hn (.inl (by rw [hmove]; rfl)), hmove, ccCommit_eq_setBest (s := s) hk hl]
  conv_lhs => arg 2; rw [h.frame]
  rfl

/-! ### The first rows -/

theorem Reaches.move_check (h : Reaches op s n d m u) (hf : u.engine.fsm = .check) :
    fsmMove op u = fsmCheck op u := by
  rw [fsmMove, h.request, Option.isSome_none, if_neg (by decide), hf]

theorem Reaches.move_size (h : Reaches op s n d m u) (hf : u.engine.fsm = .size) :
    fsmMove op u = fsmSize op u := by
  rw [fsmMove, h.request, Option.isSome_none, if_neg (by decide), hf]

theorem Reaches.move_pick (h : Reaches op s n d m u) (hf : u.engine.fsm = .pick) :
    fsmMove op u = fsmPick u := by
  rw [fsmMove, h.request, Option.isSome_none, if_neg (by decide), hf]

theorem Reaches.move_emit (h : Reaches op s n d m u) (hf : u.engine.fsm = .emit) :
    fsmMove op u = fsmEmit op u := by
  rw [fsmMove, h.request, Option.isSome_none, if_neg (by decide), hf]

theorem Reaches.move_copy (h : Reaches op s n d m u) (hf : u.engine.fsm = .copy) :
    fsmMove op u = fsmCopy u := by
  rw [fsmMove, h.request, Option.isSome_none, if_neg (by decide), hf]

/-- A failed check completes the command. -/
theorem runSelector_of_check {e : Cause} (h : firstFailure (ccChecks op s) = some e) :
    runSelector op s = s.fail e := by
  have hstart := reaches_check op s
  have hmove : fsmMove op (enterCheck s) = toError e (enterCheck s) :=
    (hstart.move_check rfl).trans (fsmCheck_of_failure h)
  have herr := hstart.move hmove (goesOn_toError _ _) rfl hstart.service rfl
  exact herr.runSelector_of_error (by omega) rfl rfl rfl

/-- CHECK → SIZE. -/
theorem reaches_size (h : firstFailure (ccChecks op s) = none) (hc : ¬Copies op s) (hl : s.srcLen.toNat ≠ 0) :
    Reaches op s 1 0 s.mem (toSize (firstTag op s) (enterCheck s)) := by
  have hstart := reaches_check op s
  have htag : firstTag op (enterCheck s) = firstTag op s := by cases op <;> rfl
  have hmove : fsmMove op (enterCheck s) = toSize (firstTag op (enterCheck s)) (enterCheck s) :=
    (hstart.move_check rfl).trans (fsmCheck_of_input h hc hl)
  rw [htag] at hmove
  exact hstart.move hmove (goesOn_toSize _ _) rfl rfl rfl

/-- CHECK → COMMIT on an empty input. -/
theorem reaches_commit_of_empty (h : firstFailure (ccChecks op s) = none) (hc : ¬Copies op s)
    (hl : s.srcLen.toNat = 0) :
    Reaches op s 1 0 s.mem (toCommit (setBest (emptyTag op s) 0 (enterCheck s))) := by
  have hstart := reaches_check op s
  have htag : emptyTag op (enterCheck s) = emptyTag op s := by cases op <;> rfl
  have hmove : fsmMove op (enterCheck s) = toCommit (setBest (emptyTag op (enterCheck s)) 0 (enterCheck s)) :=
    (hstart.move_check rfl).trans (fsmCheck_of_empty h hc hl)
  rw [htag] at hmove
  exact hstart.move hmove ((goesOn_setBest _ _ _).trans (goesOn_toCommit _)) rfl rfl rfl

/-- CHECK → COPY. -/
theorem reaches_copy (h : firstFailure (ccChecks op s) = none) (hc : Copies op s) :
    Reaches op s 1 0 s.mem (toCopy (enterCheck s)) :=
  (reaches_check op s).move (((reaches_check op s).move_check rfl).trans (fsmCheck_of_copies h hc))
    (goesOn_toCopy _) rfl rfl rfl

/-- READ of a refused source, in SIZE or in COPY, completes the command. -/
theorem runSelector_of_sourceRefused (h : firstFailure (ccChecks op s) = none)
    (hin : Copies op s ∨ s.srcLen.toNat ≠ 0) (hbad : refusedIn s.cfg [srcBuf s] ≠ []) :
    runSelector op s = s.fail (busReadCause s (refusedIn s.cfg [srcBuf s])) := by
  by_cases hc : Copies op s
  · have hcopy := reaches_copy h hc
    have hmove := (hcopy.move_copy rfl).trans (fsmCopy_of_refused (s := toCopy (enterCheck s)) hbad)
    have herr := hcopy.move hmove (goesOn_toError _ _) rfl hcopy.service rfl
    exact herr.runSelector_of_error (by omega) rfl rfl rfl
  · have hsize := reaches_size h hc (hin.resolve_left hc)
    have hmove := (hsize.move_size rfl).trans
      (fsmSize_of_refused (s := toSize (firstTag op s) (enterCheck s)) rfl hbad)
    have herr := hsize.move hmove (goesOn_toError _ _) rfl hsize.service rfl
    exact herr.runSelector_of_error (by omega) rfl rfl rfl

/-! ### SIZE (R161) -/

/-- Among the first `k` answers: nothing yet, or the least tag with the shortest. -/
def BestOf (r : Nat → List Byte) (k : Nat) (bestK : Nat) : Option Nat → Prop
  | none => k = 0
  | some len =>
    len = (r bestK).length ∧ 1 ≤ bestK ∧ bestK ≤ k ∧ (∀ j, 1 ≤ j → j ≤ k → len ≤ (r j).length) ∧
      ∀ j, 1 ≤ j → j < bestK → len < (r j).length

/-- The engine in SIZE, about to send the request to `k`, the input readable or held. -/
structure Sizing (s u : State) (k : Nat) : Prop where
  fsm : u.engine.fsm = .size
  mode : u.engine.mode = (enterCheck s).engine.mode.atPhase .read
  k : u.engine.k = k
  extent : u.engine.extent = []
  input : SizeInput u (ccInput s)

theorem sizing_toSize (hr : refusedIn s.cfg [srcBuf s] = []) (k : Nat) :
    Sizing s (toSize k (enterCheck s)) k :=
  ⟨rfl, rfl, rfl, rfl, .inr ⟨rfl, hr, rfl⟩⟩

/-- One more answer is compared with the best of those before. -/
theorem bestOf_consider {r : Nat → List Byte} {v : State} {k : Nat}
    (h : BestOf r k v.engine.bestK v.engine.bestLen) (hk : v.engine.k = k + 1) :
    BestOf r (k + 1) (consider .compress (r (k + 1)).length v).engine.bestK
      (consider .compress (r (k + 1)).length v).engine.bestLen := by
  rcases hb : v.engine.bestLen with _ | len
  · rw [hb] at h
    obtain rfl : k = 0 := h
    have hset : consider .compress (r (0 + 1)).length v = setBest 1 (r 1).length v := by
      simp [consider, hb, shorter, hk]
    rw [hset]
    refine ⟨rfl, le_rfl, le_rfl, fun j h1 h2 => ?_, fun j h1 h2 => absurd h1 (Nat.not_le.mpr h2)⟩
    obtain rfl : j = 1 := by omega
    exact le_rfl
  · rw [hb] at h
    obtain ⟨hlen, h1, h2, hmin, hfirst⟩ := h
    by_cases hs : (r (k + 1)).length < len
    · have hset : consider .compress (r (k + 1)).length v = setBest (k + 1) (r (k + 1)).length v := by
        simp [consider, hb, shorter, hs, hk]
      rw [hset]
      refine ⟨rfl, Nat.le_add_left 1 k, le_rfl, fun j hj hjk => ?_, fun j hj hjk => ?_⟩
      · obtain hjk | rfl := Nat.le_succ_iff.mp hjk
        · exact hs.le.trans (hmin j hj hjk)
        · exact le_rfl
      · exact hs.trans_le (hmin j hj (Nat.le_of_lt_succ hjk))
    · have hkeep : consider .compress (r (k + 1)).length v = v := by
        simp [consider, hb, shorter, hs]
      rw [hkeep, hb]
      refine ⟨hlen, h1, Nat.le_succ_of_le h2, fun j hj hjk => ?_, hfirst⟩
      obtain hjk | rfl := Nat.le_succ_iff.mp hjk
      · exact hmin j hj hjk
      · exact not_lt.mp hs

/-- The least tag with the shortest answer is unique. -/
theorem eq_best_of_bestOf {r : Nat → List Byte} {n bestK best : Nat} {l : Option Nat} (h : BestOf r n bestK l)
    (h1 : 1 ≤ best) (hn : best ≤ n) (hmin : ∀ k, 1 ≤ k → k ≤ n → (r best).length ≤ (r k).length)
    (hfirst : ∀ k, 1 ≤ k → k < best → (r best).length < (r k).length) :
    bestK = best ∧ l = some (r best).length := by
  cases l with
  | none =>
    obtain rfl : n = 0 := h
    omega
  | some len =>
    obtain ⟨hlen, h1', hn', hmin', hfirst'⟩ := h
    have hle := hmin bestK h1' hn'
    have hle' := hmin' best h1 hn
    have heq : bestK = best := by
      obtain hlt | heq | hlt := Nat.lt_trichotomy bestK best
      · have := hfirst bestK h1' hlt
        omega
      · exact heq
      · have := hfirst' best h1 hlt
        omega
    rw [heq] at hlen
    exact ⟨heq, congrArg some hlen⟩

theorem consider_mode (op : PortOp) (len : Nat) (u : State) :
    (consider op len u).engine.mode = u.engine.mode := by
  unfold consider
  split <;> rfl

/-- CC.SELECT after k - 1 answered requests. -/
theorem reaches_sizing {r : Nat → List Byte} (hpass : firstFailure (ccChecks .compress s) = none)
    (hl : s.srcLen.toNat ≠ 0) (hr : refusedIn s.cfg [srcBuf s] = []) {k : Nat} (hk : 1 ≤ k)
    (hn : k ≤ s.cfg.nAlgo)
    (hans : ∀ j, 1 ≤ j → j < k → answerAt s (j - 1) ⟨.compress, j, ccInput s⟩ = some (.ok (r j))) :
    ∃ u, Reaches .compress s k (k - 1) s.mem u ∧ Sizing s u k ∧
      BestOf r (k - 1) u.engine.bestK u.engine.bestLen := by
  induction k, hk using Nat.le_induction with
  | base => exact ⟨_, reaches_size hpass (by simp [Copies]) hl, sizing_toSize hr 1, rfl⟩
  | succ k hk ih =>
    obtain ⟨u, hu, ⟨hfsm, hmode, hkk, hext, hin⟩, hbest⟩ := ih (by omega) fun j h1 h2 => hans j h1 (by omega)
    have ha : answerAt u 0 ⟨.compress, u.engine.k, ccInput s⟩ = some (.ok (r k)) := by
      rw [hkk, hu.answer]
      exact hans k hk (Nat.lt_succ_self k)
    have hcfg : u.cfg = s.cfg := by rw [hu.frame]
    have hkn : (asked (ccInput s) u).engine.k < (asked (ccInput s) u).cfg.nAlgo := by
      rw [show (asked (ccInput s) u).cfg = s.cfg from hcfg, show (asked (ccInput s) u).engine.k = k from hkk]
      omega
    have hmove := (hu.move_size hfsm).trans ((fsmSize_of_answer hin ha).trans (sizeAnswer_next hkn))
    have hk1 : k - 1 + 1 = k := by omega
    refine ⟨_, hu.move hmove (((goesOn_asked _ u).trans (goesOn_consider _ _ _)).trans (goesOn_nextTag _))
      ((consider_request _ _ _).trans hu.request) ?_ ((consider_mem _ _ _).trans hu.mem),
      ⟨(consider_fsm _ _ _).trans hfsm, ?_, ?_, (consider_extent _ _ _).trans hext, .inl ?_⟩, ?_⟩
    · rw [show k + 1 - 1 = k - 1 + 1 by omega, ← hu.service_next]
      exact consider_service _ _ _
    · exact (consider_mode _ _ _).trans hmode
    · exact congrArg (· + 1) ((consider_k _ _ _).trans hkk)
    · unfold consider
      split <;> rfl
    · have hstep := bestOf_consider (v := asked (ccInput s) u) hbest (by rw [hk1]; exact hkk)
      rw [hk1] at hstep
      exact hstep

/-- A request of SIZE that is answered with `fail` completes the command. -/
theorem Reaches.runSelector_of_sizeFailure {k : Nat} (h : Reaches op s n d s.mem u) (hn : n + 1 < s.cfg.nAlgo + 4)
    (hu : Sizing s u k) (ha : answerAt s d ⟨op, k, ccInput s⟩ = some .fail) :
    runSelector op s = State.fail (sizeFailure op k) { s with service := s.service.drop (d + 1) } := by
  obtain ⟨hfsm, -, hk, hext, hin⟩ := hu
  have ha' : answerAt u 0 ⟨op, u.engine.k, ccInput s⟩ = some .fail := by rw [hk, h.answer, ha]
  have hmove := (h.move_size hfsm).trans (fsmSize_of_answer hin ha')
  have herr := h.move hmove ((goesOn_asked _ u).trans (goesOn_toError _ _)) h.request h.service_next h.mem
  refine herr.runSelector_of_error hn rfl ?_ hext
  rw [← hk]
  rfl

/-- A withheld answer leaves the command waiting. -/
theorem Reaches.runSelector_of_withheld {k : Nat} (h : Reaches op s n d s.mem u) (hn : n < s.cfg.nAlgo + 4)
    (hu : Sizing s u k) (ha : answerAt s d ⟨op, k, ccInput s⟩ = none) :
    runSelector op s = waiting ⟨op, k, ccInput s⟩ (asked (ccInput s) u) := by
  obtain ⟨hfsm, -, hk, hext, hin⟩ := hu
  have ha' : answerAt u 0 ⟨op, u.engine.k, ccInput s⟩ = none := by rw [hk, h.answer, ha]
  have hmove := (h.move_size hfsm).trans (fsmSize_of_withheld hin ha')
  rw [h.runSelector_eq hn (.inr (by rw [hmove]; rfl)), hmove, hk]

/-! ### PICK -/

/-- The engine in PICK with its choice. -/
structure Picking (s u : State) (k len : Nat) : Prop where
  fsm : u.engine.fsm = .pick
  bestK : u.engine.bestK = k
  bestLen : u.engine.bestLen = some len
  extent : u.engine.extent = []
  input : u.engine.input = some (ccInput s)

theorem consider_input (op : PortOp) (len : Nat) (u : State) :
    (consider op len u).engine.input = u.engine.input := by
  unfold consider
  split <;> rfl

/-- The last answer of SIZE leads to PICK. -/
theorem Reaches.size_last {k : Nat} {x : List Byte} (h : Reaches op s n d s.mem u) (hu : Sizing s u k)
    (hlast : op = .compress → s.cfg.nAlgo ≤ k) (ha : answerAt s d ⟨op, k, ccInput s⟩ = some (.ok x)) :
    Reaches op s (n + 1) (d + 1) s.mem (toPick (consider op x.length (asked (ccInput s) u))) := by
  obtain ⟨hfsm, -, hk, hext, hin⟩ := hu
  have ha' : answerAt u 0 ⟨op, u.engine.k, ccInput s⟩ = some (.ok x) := by rw [hk, h.answer, ha]
  have hcfg : u.cfg = s.cfg := by rw [h.frame]
  have hlast' : op = .compress → (asked (ccInput s) u).cfg.nAlgo ≤ (asked (ccInput s) u).engine.k := fun hop => by
    rw [show (asked (ccInput s) u).cfg = s.cfg from hcfg, show (asked (ccInput s) u).engine.k = k from hk]
    exact hlast hop
  have hmove := (h.move_size hfsm).trans ((fsmSize_of_answer hin ha').trans (sizeAnswer_last hlast'))
  exact h.move hmove (((goesOn_asked _ u).trans (goesOn_consider _ _ _)).trans (goesOn_toPick _))
    ((consider_request _ _ _).trans h.request) ((consider_service _ _ _).trans h.service_next)
    ((consider_mem _ _ _).trans h.mem)

theorem refusedIn_singleton_eq_nil_iff (p : Params) (b : Buf) : refusedIn p [b] = [] ↔ Admitted p b := by
  rw [refusedIn_eq_nil_iff_allAdmitted, AllAdmitted, List.forall_mem_singleton]

/-- CC.SELECT reaches PICK after N_ALGO requests, with the least tag of the shortest answer. -/
theorem select_reaches_pick {r : Nat → List Byte} {best : Nat} (h : Selects s r best) :
    ∃ u, Reaches .compress s (s.cfg.nAlgo + 1) s.cfg.nAlgo s.mem u ∧ Picking s u best (r best).length := by
  obtain ⟨-, hbufs, hl, hr, hans, h1, hn, hmin, hfirst⟩ := h
  have hpos : 1 ≤ s.cfg.nAlgo := h1.trans hn
  have hlast := hans s.cfg.nAlgo hpos le_rfl
  obtain ⟨u, hu, hsize, hbest⟩ := reaches_sizing ((passed_compress_iff s).mpr hbufs) hl
    ((refusedIn_singleton_eq_nil_iff _ _).mpr hr) hpos le_rfl fun j hj hjn => hans j hj hjn.le
  have hpick := hu.size_last hsize (fun _ => le_rfl) hlast
  have hk1 : s.cfg.nAlgo - 1 + 1 = s.cfg.nAlgo := by omega
  have hstep := bestOf_consider (v := asked (ccInput s) u) hbest (by rw [hk1]; exact hsize.k)
  rw [hk1] at hpick hstep
  obtain ⟨hbk, hbl⟩ := eq_best_of_bestOf hstep h1 hn hmin hfirst
  exact ⟨_, hpick, rfl, hbk, hbl, (consider_extent _ _ _).trans hsize.extent, consider_input _ _ _⟩

/-- What CC.EXPAND with a tag and a non-empty readable input has passed. -/
theorem passed_of_expands (h : Expands s) :
    firstFailure (ccChecks .decompress s) = none ∧ ¬Copies .decompress s ∧ s.srcLen.toNat ≠ 0 ∧
      refusedIn s.cfg [srcBuf s] = [] := by
  obtain ⟨-, hbufs, hl, hr, h1, hn⟩ := h
  exact ⟨(passed_decompress_iff s).mpr ⟨hn, hbufs, fun h0 => by omega⟩, fun hc => by have := hc.2; omega, hl,
    (refusedIn_singleton_eq_nil_iff _ _).mpr hr⟩

/-- CC.EXPAND reaches SIZE with its tag. -/
theorem expand_reaches_size (h : Expands s) :
    ∃ u, Reaches .decompress s 1 0 s.mem u ∧ Sizing s u s.algo.toNat := by
  obtain ⟨hpass, hc, hl, hr⟩ := passed_of_expands h
  exact ⟨_, reaches_size hpass hc hl, sizing_toSize hr _⟩

/-- CC.EXPAND reaches PICK after one request. -/
theorem expand_reaches_pick {x : List Byte} (h : Expands s) (ha : expandAnswer s 0 = some (.ok x)) :
    ∃ u, Reaches .decompress s 2 1 s.mem u ∧ Picking s u s.algo.toNat x.length := by
  obtain ⟨u, hu, hsize⟩ := expand_reaches_size h
  have hpick := hu.size_last hsize (fun hop => by cases hop) ha
  have hset : consider .decompress x.length (asked (ccInput s) u) =
      setBest s.algo.toNat x.length (asked (ccInput s) u) := by
    rw [consider, if_pos (.inl rfl), show (asked (ccInput s) u).engine.k = s.algo.toNat from hsize.k]
  rw [hset] at hpick
  exact ⟨_, hpick, rfl, rfl, rfl, hsize.extent, rfl⟩

/-- PICK of an output that does not fit completes the command. -/
theorem Reaches.runSelector_of_short {k len : Nat} (h : Reaches op s n d s.mem u) (hn : n + 1 < s.cfg.nAlgo + 4)
    (hu : Picking s u k len) (hlen : s.dstCap.toNat < len) :
    runSelector op s = State.fail .capacity { s with service := s.service.drop d } := by
  obtain ⟨hfsm, -, hbl, hext, -⟩ := hu
  have hcap : u.dstCap = s.dstCap := by rw [h.frame]
  have hshort : u.dstCap.toNat < u.engine.bestLen.getD 0 := by rwa [hcap, hbl]
  have hmove := (h.move_pick hfsm).trans (fsmPick_of_short hshort)
  exact (h.move hmove (goesOn_toError _ _) h.request h.service h.mem).runSelector_of_error hn rfl rfl hext

/-! ### EMIT -/

/-- The engine in EMIT with its choice and the output extent. -/
structure Emitting (s u : State) (k len : Nat) : Prop where
  fsm : u.engine.fsm = .emit
  bestK : u.engine.bestK = k
  bestLen : u.engine.bestLen = some len
  extent : u.engine.extent = [dstPart s len]
  input : u.engine.input = some (ccInput s)

/-- PICK → EMIT. -/
theorem Reaches.pick_fits {k len : Nat} (h : Reaches op s n d s.mem u) (hu : Picking s u k len)
    (hlen : len ≤ s.dstCap.toNat) :
    ∃ v, Reaches op s (n + 1) d s.mem v ∧ Emitting s v k len := by
  obtain ⟨hfsm, hbk, hbl, -, hin⟩ := hu
  have hcap : u.dstCap = s.dstCap := by rw [h.frame]
  have haddr : u.dstAddr = s.dstAddr := by rw [h.frame]
  have hfits : u.engine.bestLen.getD 0 ≤ u.dstCap.toNat := by rwa [hcap, hbl]
  have hmove := (h.move_pick hfsm).trans (fsmPick_of_fits hfits)
  refine ⟨_, h.move hmove (goesOn_toEmit _) h.request h.service h.mem, rfl, hbk, hbl, ?_, hin⟩
  simp only [toEmit, hbl, haddr, Option.getD_some, dstPart]

theorem Reaches.emit_answer {k len : Nat} {m : Memory} (h : Reaches op s n d m u) (hu : Emitting s u k len) :
    answerAt u 0 (emitRequest op u) = answerAt s d ⟨op, k, ccInput s⟩ := by
  rw [emitRequest, heldInput, hu.bestK, hu.input, Option.getD_some, h.answer]

/-- EMIT with an answer that fails or has another length. -/
theorem Reaches.runSelector_of_differs {k len : Nat} {z : Response} (h : Reaches op s n d s.mem u)
    (hn : n + 1 < s.cfg.nAlgo + 4) (hu : Emitting s u k len) (ha : answerAt s d ⟨op, k, ccInput s⟩ = some z)
    (hz : ∀ y, z = .ok y → y.length ≠ len) :
    runSelector op s =
      State.failLosing [dstPart s len] (.nondeterministic k) { s with service := s.service.drop (d + 1) } := by
  have hdiff : Differs z (served u) := fun y hy heq => hz y hy (Option.some.inj (heq.symm.trans hu.bestLen))
  have hmove := (h.move_emit hu.fsm).trans
    ((fsmEmit_of_answer ((h.emit_answer hu).trans ha)).trans (emitAnswer_of_differs hdiff))
  have herr := h.move hmove ((goesOn_served u).trans (goesOn_toError _ _)) h.request h.service_next h.mem
  exact herr.runSelector_of_errorInWrite hn rfl (by rw [← hu.bestK]; rfl) hu.extent

/-- EMIT that meets a refused byte of the output extent. -/
theorem Reaches.runSelector_of_emitRefused {k : Nat} {y : List Byte} (h : Reaches op s n d s.mem u)
    (hn : n + 1 < s.cfg.nAlgo + 4) (hu : Emitting s u k y.length)
    (ha : answerAt s d ⟨op, k, ccInput s⟩ = some (.ok y))
    (hbad : refusedIn s.cfg [dstPart s y.length] ≠ []) :
    runSelector op s =
      State.failLosing [dstPart s y.length] (busWriteCause s (refusedIn s.cfg [dstPart s y.length]))
        { s with service := s.service.drop (d + 1) } := by
  have hcfg : (served u).cfg = s.cfg := by rw [h.frame]; rfl
  have hfresh : u.fresh = s.fresh := by rw [h.frame]
  have hext : (served u).engine.extent = [dstPart s y.length] := hu.extent
  have hbad' : refusedIn (served u).cfg (served u).engine.extent ≠ [] := by rwa [hcfg, hext]
  have hmove := (h.move_emit hu.fsm).trans ((fsmEmit_of_answer ((h.emit_answer hu).trans ha)).trans
    ((emitAnswer_of_same (s := served u) hu.bestLen).trans (storeOutput_of_refused hbad')))
  rw [hcfg, hext] at hmove
  have herr := h.move hmove ((goesOn_served u).trans (goesOn_toError _ _)) h.request h.service_next h.mem
  refine herr.runSelector_of_errorInWrite hn rfl ?_ hu.extent
  simp only [toError, busWriteCause, served, hfresh]

/-- EMIT that stores its answer, and the completion. -/
theorem Reaches.runSelector_of_emitStored {k : Nat} {y : List Byte} (h : Reaches op s n d s.mem u)
    (hn : n + 1 < s.cfg.nAlgo + 4) (hu : Emitting s u k y.length)
    (ha : answerAt s d ⟨op, k, ccInput s⟩ = some (.ok y)) (hok : refusedIn s.cfg [dstPart s y.length] = [])
    (hquiet : isRaced [srcBuf s, dstBuf s] s = false) :
    runSelector op s =
      State.succeed (ccCommit op (setBest k y.length s))
        { s with service := s.service.drop (d + 1), mem := writeBytes s.mem s.dstAddr.toNat y } := by
  have hcfg : (served u).cfg = s.cfg := by rw [h.frame]; rfl
  have haddr : u.dstAddr = s.dstAddr := by rw [h.frame]
  have hok' : refusedIn (served u).cfg (served u).engine.extent = [] := by
    rwa [hcfg, show (served u).engine.extent = _ from hu.extent]
  have hmove := (h.move_emit hu.fsm).trans ((fsmEmit_of_answer ((h.emit_answer hu).trans ha)).trans
    ((emitAnswer_of_same (s := served u) hu.bestLen).trans (storeOutput_of_admitted hok')))
  have hdone := h.move (m' := writeBytes s.mem s.dstAddr.toNat y) hmove
    (((goesOn_served u).trans (goesOn_stored _ _)).trans (goesOn_toCommit _)) h.request h.service_next
    (by rw [← h.mem, ← haddr]; rfl)
  exact hdone.runSelector_of_commit hn rfl hu.bestK hu.bestLen hquiet

/-! ### The two ways without a request -/

/-- An empty input, and the completion. -/
theorem runSelector_of_empty (h : firstFailure (ccChecks op s) = none) (hc : ¬Copies op s)
    (hl : s.srcLen.toNat = 0) (hquiet : isRaced [srcBuf s, dstBuf s] s = false) :
    runSelector op s = State.succeed (ccCommit op (setBest (emptyTag op s) 0 s)) s := by
  exact (reaches_commit_of_empty h hc hl).runSelector_of_commit (by omega) rfl rfl rfl hquiet

/-- What a copy has passed. -/
theorem passed_of_copies (hbufs : CcBuffersOk s) (h0 : s.algo.toNat = 0)
    (hcap : s.srcLen.toNat ≤ s.dstCap.toNat) :
    firstFailure (ccChecks .decompress s) = none ∧ Copies .decompress s :=
  ⟨(passed_decompress_iff s).mpr ⟨by omega, hbufs, fun _ => hcap⟩, rfl, h0⟩

/-- COPY that meets a refused byte of the output extent. -/
theorem runSelector_of_copyRefused (h : firstFailure (ccChecks op s) = none) (hc : Copies op s)
    (hsrc : refusedIn s.cfg [srcBuf s] = []) (hbad : refusedIn s.cfg [dstPart s s.srcLen.toNat] ≠ []) :
    runSelector op s = State.failLosing [dstPart s s.srcLen.toNat]
      (busWriteCause s (refusedIn s.cfg [dstPart s s.srcLen.toNat])) s := by
  have hcopy := reaches_copy h hc
  have hmove := (hcopy.move_copy rfl).trans ((fsmCopy_of_admitted (s := toCopy (enterCheck s)) hsrc).trans
    (storeOutput_of_refused (s := copying (toCopy (enterCheck s))) hbad))
  have herr := hcopy.move hmove ((goesOn_copying _).trans (goesOn_toError _ _)) rfl hcopy.service rfl
  exact herr.runSelector_of_errorInWrite (by omega) rfl rfl rfl

/-- COPY that stores the input, and the completion. -/
theorem runSelector_of_copyStored (h : firstFailure (ccChecks op s) = none) (hc : Copies op s)
    (hsrc : refusedIn s.cfg [srcBuf s] = []) (hok : refusedIn s.cfg [dstPart s s.srcLen.toNat] = [])
    (hquiet : isRaced [srcBuf s, dstBuf s] s = false) :
    runSelector op s = State.succeed (ccCommit op (setBest 0 s.srcLen.toNat s))
      { s with mem := writeBytes s.mem s.dstAddr.toNat (ccInput s) } := by
  have hcopy := reaches_copy h hc
  have hmove := (hcopy.move_copy rfl).trans ((fsmCopy_of_admitted (s := toCopy (enterCheck s)) hsrc).trans
    (storeOutput_of_admitted (s := copying (toCopy (enterCheck s))) hok))
  have hdone := hcopy.move (m' := writeBytes s.mem s.dstAddr.toNat (ccInput s)) hmove
    (((goesOn_copying _).trans (goesOn_stored _ _)).trans (goesOn_toCommit _)) rfl hcopy.service rfl
  exact hdone.runSelector_of_commit (by omega) rfl rfl rfl hquiet

end Sys2Proof.Proofs
end

section
/-!
PROOF. The endings of CC.SELECT and CC.EXPAND (43_channel_compressor.md R161 to R166): the checks, the failures of
the service, NONDETERMINISTIC, success.
-/

namespace Sys2Proof.Proofs

open Sys2Proof Sys2Proof.Machine Sys2Proof.Safety Sys2Proof.Laws

/-! ### VALIDATE -/

/-- Settles O55: the first check that fails completes the command from ERROR. -/
theorem selectorErrorOrder : Obligations.SelectorErrorOrder := by
  intro s
  have hselect : ∀ {e : Cause}, e.address = none → firstFailure (ccChecks .compress s) = some e →
      exec .ccSelect s = .next (failedWith e.kind.code e.sub s) := fun ha h => by
    rw [exec_ccSelect, runSelector_of_check h, fail_eq_failedWith, ha]
    rfl
  have hexpand : ∀ {e : Cause}, e.address = none → firstFailure (ccChecks .decompress s) = some e →
      exec .ccExpand s = .next (failedWith e.kind.code e.sub s) := fun ha h => by
    rw [exec_ccExpand, runSelector_of_check h, fail_eq_failedWith, ha]
    rfl
  rw [firstFailure_ccChecks_compress] at hselect
  rw [firstFailure_ccChecks_decompress] at hexpand
  refine ⟨fun hspace => hselect (e := .range) rfl (if_pos hspace),
    fun h1 h2 hover => hselect (e := .overlap) rfl ?_,
    fun htag => hexpand (e := .badTag) rfl (if_pos htag), fun htag => ?_⟩
  · rw [if_neg (not_not.mpr ⟨h1, h2⟩), if_pos hover]
  · rw [if_neg htag.not_gt] at hexpand
    refine ⟨fun hspace => hexpand (e := .range) rfl (if_pos hspace), fun h1 h2 => ?_⟩
    rw [if_neg (not_not.mpr ⟨h1, h2⟩)] at hexpand
    refine ⟨fun hover => hexpand (e := .overlap) rfl (if_pos hover),
      fun hapart h0 hcap => hexpand (e := .capacity) rfl ?_⟩
    rw [if_neg (not_not.mpr hapart), if_pos ⟨h0, hcap⟩]

/-! ### Endings without an output -/

/-- Settles O49: CHECK leads to COMMIT with tag 0 and length 0. -/
theorem ccSelectOfEmptyInput : Obligations.CcSelectOfEmptyInput := by
  intro s hbufs hl hquiet
  rw [exec_ccSelect, runSelector_of_empty ((passed_compress_iff s).mpr hbufs) (by simp [Copies]) hl hquiet]
  rfl

/-- Settles O54: CHECK leads to COMMIT with length 0. -/
theorem ccExpandOfEmptyInput : Obligations.CcExpandOfEmptyInput := by
  intro s hbufs hl h1 hn hquiet
  have hc : ¬Copies .decompress s := fun hc => by
    have h0 := hc.2
    omega
  have hpass : firstFailure (ccChecks .decompress s) = none :=
    (passed_decompress_iff s).mpr ⟨hn, hbufs, fun h0 => by omega⟩
  rw [exec_ccExpand, runSelector_of_empty hpass hc hl hquiet]
  rfl

/-- A tag's sub-code as the statements write it (60_exceptions.md R181). -/
theorem ofNat_subWithTag (b : BitVec 8) {s : State} {k : Nat} (hcfg : s.cfg.wellFormed = true)
    (hk : k ≤ s.cfg.nAlgo) : BitVec.ofNat 16 (b.toNat * 256 + k) = subWithTag b k := by
  have hlt := (capFields_lt_of_wellFormed hcfg).1
  have hb := b.isLt
  refine BitVec.eq_of_toNat_eq ?_
  rw [BitVec.toNat_ofNat, subWithTag_toNat b hcfg hk, Nat.mod_eq_of_lt (by omega)]

/-- Settles O50: SIZE stops at the first `fail`, PICK at an output that does not fit. -/
theorem ccSelectReportsTheFirstFailure : Obligations.CcSelectReportsTheFirstFailure := by
  refine ⟨fun s r k hcfg hbufs hl hr h1 hn hans hfail => ?_, fun s r best h hlen => ?_, fun s h =>
    ⟨fun hfail => ?_, fun x ha hlen => ?_⟩⟩
  · obtain ⟨u, hu, hsize, -⟩ := reaches_sizing ((passed_compress_iff s).mpr hbufs) hl
      ((refusedIn_singleton_eq_nil_iff _ _).mpr hr) h1 hn hans
    rw [exec_ccSelect, hu.runSelector_of_sizeFailure (by omega) hsize hfail, Nat.sub_add_cancel h1,
      show BitVec.ofNat 16 (0x0100 + k) = subWithTag 0x01 k from ofNat_subWithTag 0x01 hcfg hn]
    rfl
  · obtain ⟨u, hu, hpick⟩ := select_reaches_pick h
    rw [exec_ccSelect, hu.runSelector_of_short (by omega) hpick hlen]
    rfl
  · obtain ⟨u, hu, hsize⟩ := expand_reaches_size h
    obtain ⟨hcfg, -, -, -, -, hn⟩ := h
    rw [exec_ccExpand, hu.runSelector_of_sizeFailure (by omega) hsize hfail,
      show BitVec.ofNat 16 (0x0200 + s.algo.toNat) = subWithTag 0x02 s.algo.toNat from
        ofNat_subWithTag 0x02 hcfg hn]
    rfl
  · obtain ⟨u, hu, hpick⟩ := expand_reaches_pick h ha
    rw [exec_ccExpand, hu.runSelector_of_short (by omega) hpick hlen]
    rfl

/-- Settles O56: SIZE waits with the request to k outstanding, and a waiting engine does not move. -/
theorem withheldAnswerLeavesRunning : Obligations.WithheldAnswerLeavesRunning := by
  intro s r k _ hbufs hl hr hin h1 hn hans hwithheld
  obtain ⟨u, hu, hsize, -⟩ := reaches_sizing ((passed_compress_iff s).mpr hbufs) hl
    ((refusedIn_singleton_eq_nil_iff _ _).mpr hr) h1 hn hans
  have hrun := hu.runSelector_of_withheld (by omega) hsize hwithheld
  have hgo := (hu.goesOn.trans (goesOn_asked (ccInput s) u)).trans (goesOn_waiting ⟨.compress, k, ccInput s⟩ _)
  have hservice : (waiting ⟨.compress, k, ccInput s⟩ (asked (ccInput s) u)).service = s.service.drop k := by
    rw [← Nat.sub_add_cancel h1, ← hu.service_next]
    rfl
  refine ⟨_, by rw [exec_ccSelect, hrun], busy_of_goesOn hgo (enterCheck_busy s), rfl, ?_, fun hm => ?_⟩
  · rw [← hservice]
    conv_lhs => rw [goesOn_frame hgo]
    rw [show (waiting ⟨.compress, k, ccInput s⟩ (asked (ccInput s) u)).mem = s.mem from hu.mem]
  · have hinputs : (waiting ⟨.compress, k, ccInput s⟩ (asked (ccInput s) u)).inputs = [] := by
      rw [goesOn_frame hgo]
      exact hin
    have hmode : u.engine.mode = .running (encode (selectorInstr .compress)) .read := by
      rw [hsize.mode]
      simp only [enterCheck, hm, Mode.atPhase, selectorInstr]
    rw [step_of_phase hinputs (c := encode (selectorInstr .compress)) (ph := .read) hmode (by decide),
      engineMove_of_selector (unitOf_selectorInstr .compress)
        (s := waiting ⟨.compress, k, ccInput s⟩ (asked (ccInput s) u)) (congrArg commandOf hmode),
      fsmMove_of_waiting rfl]

/-! ### Endings in WRITE -/

theorem endsInWrite_of_failLosing {i : Instr} {e : Cause} {x : List Buf} {svc : List Answer} {s : State}
    (hwf : Memory.wf s.mem = true)
    (h : exec i s = .next (State.failLosing x e { s with service := svc })) :
    EndsInWrite i e.kind.code e.sub (e.address.getD s.errAddr) svc x s :=
  ⟨_, _, h, failLosing_sameOutside (s := { s with service := svc }) hwf x e⟩

/-- Settles O51: EMIT raises NONDETERMINISTIC, and the completion loses the extent. -/
theorem ccSelectDetectsNondeterminism : Obligations.CcSelectDetectsNondeterminism := by
  refine ⟨fun s r best z hwf h hfits ha hz => ?_, fun s x z hwf h hx hfits ha hz => ?_⟩
  · obtain ⟨u, hu, hpick⟩ := select_reaches_pick h
    obtain ⟨v, hv, hemit⟩ := hu.pick_fits hpick hfits
    obtain ⟨hcfg, -, -, -, -, -, hn, -⟩ := h
    rw [show BitVec.ofNat 16 (0x0300 + best) = subWithTag 0x03 best from ofNat_subWithTag 0x03 hcfg hn]
    exact endsInWrite_of_failLosing (e := .nondeterministic best) hwf
      (by rw [exec_ccSelect, hv.runSelector_of_differs (by omega) hemit ha hz])
  · obtain ⟨u, hu, hpick⟩ := expand_reaches_pick h hx
    obtain ⟨v, hv, hemit⟩ := hu.pick_fits hpick hfits
    obtain ⟨hcfg, -, -, -, h1, hn⟩ := h
    rw [show BitVec.ofNat 16 (0x0300 + s.algo.toNat) = subWithTag 0x03 s.algo.toNat from
      ofNat_subWithTag 0x03 hcfg hn]
    exact endsInWrite_of_failLosing (e := .nondeterministic s.algo.toNat) hwf
      (by rw [exec_ccExpand, hv.runSelector_of_differs (by omega) hemit ha hz])

/-! ### Success -/

/-- CC.SELECT whose repeated answer has the shortest length and fits is in EMIT. -/
theorem select_reaches_emit {s : State} {r : Nat → List Byte} {best : Nat} {y : List Byte}
    (h : Selects s r best) (hy : y.length = (r best).length) (hfits : y.length ≤ s.dstCap.toNat) :
    ∃ u, Reaches .compress s (s.cfg.nAlgo + 2) s.cfg.nAlgo s.mem u ∧ Emitting s u best y.length := by
  obtain ⟨u, hu, hpick⟩ := select_reaches_pick h
  rw [← hy] at hpick
  exact hu.pick_fits hpick hfits

/-- CC.EXPAND whose repeated answer has the length of the first and fits is in EMIT. -/
theorem expand_reaches_emit {s : State} {x y : List Byte} (h : Expands s)
    (hx : expandAnswer s 0 = some (.ok x)) (hy : y.length = x.length) (hfits : y.length ≤ s.dstCap.toNat) :
    ∃ u, Reaches .decompress s 3 1 s.mem u ∧ Emitting s u s.algo.toNat y.length := by
  obtain ⟨u, hu, hpick⟩ := expand_reaches_pick h hx
  rw [← hy] at hpick
  exact hu.pick_fits hpick hfits

theorem nAlgo_pos {s : State} (h : s.cfg.wellFormed = true) : 1 ≤ s.cfg.nAlgo := by
  simp only [Params.wellFormed, Bool.and_eq_true, decide_eq_true_eq] at h
  exact h.1.1.1.1

/-- Settles O48: SIZE chooses the least tag of the shortest answer, EMIT stores what it answers again. -/
theorem ccSelectPicksTheShortest : Obligations.CcSelectPicksTheShortest := by
  intro s r best y h ha hy hfits hok hquiet
  obtain ⟨u, hu, hemit⟩ := select_reaches_emit h hy hfits
  rw [exec_ccSelect, hu.runSelector_of_emitStored (by omega) hemit ha
    ((refusedIn_singleton_eq_nil_iff _ _).mpr hok) hquiet]
  rfl

/-- Settles O52: EMIT stores what the tagged decompressor answers again. -/
theorem ccExpandDecompresses : Obligations.CcExpandDecompresses := by
  intro s x y h hx ha hy hfits hok hquiet
  have hpos := nAlgo_pos h.1
  obtain ⟨u, hu, hemit⟩ := expand_reaches_emit h hx hy hfits
  rw [exec_ccExpand, hu.runSelector_of_emitStored (by omega) hemit ha
    ((refusedIn_singleton_eq_nil_iff _ _).mpr hok) hquiet]
  rfl

/-- Settles O53: COPY stores the source bytes. -/
theorem ccExpandCopiesUnderNone : Obligations.CcExpandCopiesUnderNone := by
  intro s hbufs h0 hcap hsrc hdst hquiet
  obtain ⟨hpass, hc⟩ := passed_of_copies hbufs h0 hcap
  have hcommit : ccCommit .decompress (setBest 0 s.srcLen.toNat s) = { outLen := some s.srcLen } := by
    simp [ccCommit, setBest]
  rw [exec_ccExpand, runSelector_of_copyStored hpass hc ((refusedIn_singleton_eq_nil_iff _ _).mpr hsrc)
    ((refusedIn_singleton_eq_nil_iff _ _).mpr hdst) hquiet, hcommit]
  rfl

end Sys2Proof.Proofs
end

section
/-!
PROOF. The bus errors (20_memory.md R66; 60_exceptions.md R183, R184): a refused byte met in READ ends a command
with nothing else changed, one met in WRITE loses the output extent.
-/

namespace Sys2Proof.Proofs

open Sys2Proof Sys2Proof.Machine Sys2Proof.Safety Sys2Proof.Laws

/-! ### READ meets a refused byte -/

theorem refusedIn_ne_nil_iff (p : Params) (bufs : List Buf) : refusedIn p bufs ≠ [] ↔ ¬AllAdmitted p bufs :=
  (refusedIn_eq_nil_iff_allAdmitted p bufs).not

theorem refusedIn_singleton_ne_nil_iff (p : Params) (b : Buf) : refusedIn p [b] ≠ [] ↔ ¬Admitted p b :=
  (refusedIn_singleton_eq_nil_iff p b).not

theorem endsBusRead_of_fail {i : Instr} {s : State} {bufs : List Buf} (hbad : refusedIn s.cfg bufs ≠ [])
    (hlt : ∀ a, Covers bufs a → a < 2 ^ 64)
    (h : exec i s = .next (s.fail (busReadCause s (refusedIn s.cfg bufs)))) : EndsBusRead i bufs s :=
  ⟨_, h, refusedByte_choose hbad hlt s.fresh⟩

/-- A rule whose checks have passed and that reads a refused byte. -/
theorem endsBusRead_of_rule {i : Instr} {r : Rule} {s : State} (hu : unitOf i = .rule r)
    (hcfg : s.cfg.wellFormed = true) (hpass : firstFailure (r.checks s) = none)
    (hbad : ¬AllAdmitted s.cfg (r.reads s)) : EndsBusRead i (r.reads s) s := by
  have hsound := rule_sound hu s
  rw [← refusedIn_ne_nil_iff] at hbad
  refine endsBusRead_of_fail hbad
    (fun a ha => lt_of_covers hcfg (hsound.space hpass) (hsound.reads hpass a ha)) ?_
  rw [exec_eq_unit, hu]
  exact congrArg Host.Outcome.next (runRule_of_readError hpass (readPhase_of_refused hbad))

/-- The same for a rule that reads one buffer. -/
theorem endsBusRead_of_rule_singleton {i : Instr} {r : Rule} {s : State} {b : Buf} (hu : unitOf i = .rule r)
    (hcfg : s.cfg.wellFormed = true) (hpass : firstFailure (r.checks s) = none) (hreads : r.reads s = [b])
    (hbad : ¬Admitted s.cfg b) : EndsBusRead i [b] s := by
  rw [← hreads]
  refine endsBusRead_of_rule hu hcfg hpass ?_
  rwa [hreads, AllAdmitted, List.forall_mem_singleton]

theorem endsBusRead_of_selector {op : PortOp} {s : State} (hcfg : s.cfg.wellFormed = true)
    (hpass : firstFailure (ccChecks op s) = none) (hin : Copies op s ∨ s.srcLen.toNat ≠ 0)
    (hbad : ¬Admitted s.cfg (srcBuf s)) : EndsBusRead (selectorInstr op) [srcBuf s] s := by
  rw [← refusedIn_singleton_ne_nil_iff] at hbad
  refine endsBusRead_of_fail hbad
    (fun a ha => lt_of_covers hcfg (named_inSpace hpass) (covers_named_of_src ha)) ?_
  rw [exec_eq_unit, unitOf_selectorInstr]
  exact congrArg Host.Outcome.next (runSelector_of_sourceRefused hpass hin hbad)

theorem admitted_of_len_zero {p : Params} {b : Buf} (h : b.len = 0) : Admitted p b := fun a h1 h2 => by omega

theorem unitOf_bsWr (w : Width) : unitOf (.bsWr w) = .rule (bsWrRule w) := by cases w <;> rfl
theorem unitOf_bsRd (w : Width) : unitOf (.bsRd w) = .rule (bsRdRule w) := by cases w <;> rfl
theorem unitOf_bsPack (w : Width) : unitOf (.bsPack w) = .rule (bsPackRule w) := by cases w <;> rfl
theorem unitOf_bsUnpack (w : Width) : unitOf (.bsUnpack w) = .rule (bsUnpackRule w) := by cases w <;> rfl
theorem unitOf_ddEnc (w : Width) : unitOf (.ddEnc w) = .rule (ddEncRule w) := by cases w <;> rfl
theorem unitOf_ddDec (w : Width) : unitOf (.ddDec w) = .rule (ddDecRule w) := by cases w <;> rfl
theorem unitOf_fsSplit (w : Width) : unitOf (.fsSplit w) = .rule (fsSplitRule w) := by cases w <;> rfl
theorem unitOf_fsRecomb (w : Width) : unitOf (.fsRecomb w) = .rule (fsRecombRule w) := by cases w <;> rfl

/-- Settles O34: a rule meets the byte in READ, a CC command in SIZE or in COPY. -/
theorem refusedSourceByteIsBusRead : Obligations.RefusedSourceByteIsBusRead := by
  intro s hcfg
  refine ⟨fun w => ⟨fun h => ?_, fun h => ?_, fun h => ?_, fun h => ?_, fun h => ?_, fun bw h => ?_,
    fun h => ?_, fun h => ?_⟩, fun hbufs hbad => ?_⟩
  · exact endsBusRead_of_rule (unitOf_bsWr w) hcfg ((bsWrChecks_pass_iff w s).mpr h)
  · exact endsBusRead_of_rule (unitOf_bsRd w) hcfg ((bsRdChecks_pass_iff w s).mpr h)
  · exact endsBusRead_of_rule_singleton (unitOf_bsPack w) hcfg ((bsPackChecks_pass_iff w s).mpr h) rfl
  · exact endsBusRead_of_rule_singleton (unitOf_bsUnpack w) hcfg ((bsUnpackChecks_pass_iff w s).mpr h) rfl
  · exact endsBusRead_of_rule_singleton (unitOf_ddEnc w) hcfg ((ddEncChecks_pass_iff w s).mpr h) rfl
  · exact endsBusRead_of_rule_singleton (unitOf_ddDec w) hcfg (ddDecChecks_pass_of_legal h) rfl
  · exact endsBusRead_of_rule_singleton (unitOf_fsSplit w) hcfg ((fsSplitChecks_pass_iff w s).mpr h) rfl
  · exact endsBusRead_of_rule (unitOf_fsRecomb w) hcfg ((fsRecombChecks_pass_iff w s).mpr h)
  · have hl : s.srcLen.toNat ≠ 0 := fun h0 => hbad (admitted_of_len_zero h0)
    exact ⟨endsBusRead_of_selector (op := .compress) hcfg ((passed_compress_iff s).mpr hbufs) (.inr hl) hbad,
      fun htag hcap => endsBusRead_of_selector (op := .decompress) hcfg
        ((passed_decompress_iff s).mpr ⟨htag, hbufs, hcap⟩) (.inr hl) hbad⟩

/-! ### WRITE meets a refused byte -/

theorem endsBusWrite_of_failLosing {i : Instr} {s : State} {bufs : List Buf} {svc : List Answer}
    (hwf : Memory.wf s.mem = true) (hbad : refusedIn s.cfg bufs ≠ []) (hlt : ∀ a, Covers bufs a → a < 2 ^ 64)
    (h : exec i s = .next
      (State.failLosing bufs (busWriteCause s (refusedIn s.cfg bufs)) { s with service := svc })) :
    EndsBusWrite i svc bufs s :=
  ⟨_, endsInWrite_of_failLosing hwf h, refusedByte_choose hbad hlt s.fresh⟩

/-- A rule that has read its bytes without an error and would write a refused one. -/
theorem endsBusWrite_of_rule {i : Instr} {r : Rule} {s : State} {job : Job} {bufs : List Buf}
    (hu : unitOf i = .rule r) (hwf : Memory.wf s.mem = true) (hcfg : s.cfg.wellFormed = true)
    (hpass : firstFailure (r.checks s) = none) (hreads : AllAdmitted s.cfg (r.reads s))
    (hplan : r.plan s = .ok job) (hext : extentOf job.out = bufs) (hbad : ¬AllAdmitted s.cfg bufs) :
    EndsBusWrite i s.service bufs s := by
  have hsound := rule_sound hu s
  subst hext
  rw [← refusedIn_ne_nil_iff] at hbad
  have hread : readPhase r s = .ok job :=
    (readPhase_of_admitted ((refusedIn_eq_nil_iff_allAdmitted _ _).mpr hreads)).trans hplan
  refine endsBusWrite_of_failLosing hwf hbad (fun a ha => lt_of_covers hcfg (hsound.space hpass)
    (hsound.outputs a (hsound.writes hpass job hplan a ha))) ?_
  rw [exec_eq_unit, hu]
  exact congrArg Host.Outcome.next (runRule_of_writeRefused hpass hread hbad)

/-- The same for a rule that reads one buffer and writes one. -/
theorem endsBusWrite_of_rule_singleton {i : Instr} {r : Rule} {s : State} {job : Job} {b b' : Buf}
    (hu : unitOf i = .rule r) (hwf : Memory.wf s.mem = true) (hcfg : s.cfg.wellFormed = true)
    (hpass : firstFailure (r.checks s) = none) (hreads : r.reads s = [b]) (hadmitted : Admitted s.cfg b)
    (hplan : r.plan s = .ok job) (hext : extentOf job.out = [b']) (hbad : ¬Admitted s.cfg b') :
    EndsBusWrite i s.service [b'] s := by
  refine endsBusWrite_of_rule hu hwf hcfg hpass ?_ hplan hext ?_
  · rwa [hreads, AllAdmitted, List.forall_mem_singleton]
  · rwa [AllAdmitted, List.forall_mem_singleton]

theorem lt_of_covers_dstPart {op : PortOp} {s : State} {n : Nat} (hcfg : s.cfg.wellFormed = true)
    (hpass : firstFailure (ccChecks op s) = none) (hn : n ≤ s.dstCap.toNat) (a : Nat)
    (ha : Covers [dstPart s n] a) : a < 2 ^ 64 :=
  lt_of_covers hcfg (named_inSpace hpass) (covers_named_of_dst (covers_dstBuf hn ha))

/-- Settles O35: a rule meets the byte in WRITE, a CC command in EMIT or in COPY. -/
theorem refusedOutputByteIsBusWrite : Obligations.RefusedOutputByteIsBusWrite := by
  intro s hwf hcfg
  have hpos := nAlgo_pos hcfg
  refine ⟨fun w => ⟨fun h hsrc hdst => ?_, fun h hsrc hdst => ?_, fun mn mx bw h hsrc hrange hfits hdst => ?_,
    fun bw h hsrc hdst => ?_, fun h hsrc hdst => ?_, fun h hfit hdst => ?_⟩,
    fun r best y h ha hy hfits hdst => ?_, fun x y h hx ha hy hfits hdst => ?_,
    fun hbufs h0 hcap hsrc hdst => ?_⟩
  · obtain ⟨job, hplan, hext, -⟩ := bsPackPlan_eq w s
    exact endsBusWrite_of_rule_singleton (unitOf_bsPack w) hwf hcfg ((bsPackChecks_pass_iff w s).mpr h) rfl
      hsrc hplan hext hdst
  · obtain ⟨job, hplan, hext, -⟩ := bsUnpackPlan_eq w s
    exact endsBusWrite_of_rule_singleton (unitOf_bsUnpack w) hwf hcfg ((bsUnpackChecks_pass_iff w s).mpr h) rfl
      hsrc hplan hext hdst
  · obtain ⟨rfl, rfl⟩ := of_deltaRange hrange
    obtain ⟨job, hplan, hext, -⟩ := ddEncPlan_of_fits hfits
    exact endsBusWrite_of_rule_singleton (unitOf_ddEnc w) hwf hcfg ((ddEncChecks_pass_iff w s).mpr h) rfl
      hsrc hplan hext hdst
  · obtain ⟨job, hplan, hext, -⟩ := ddDecPlan_eq w s
    exact endsBusWrite_of_rule_singleton (unitOf_ddDec w) hwf hcfg (ddDecChecks_pass_of_legal h) rfl
      hsrc hplan hext hdst
  · obtain ⟨job, hplan, hext, -⟩ := fsSplitPlan_eq w s
    exact endsBusWrite_of_rule (unitOf_fsSplit w) hwf hcfg ((fsSplitChecks_pass_iff w s).mpr h)
      (List.forall_mem_singleton.mpr hsrc) hplan hext hdst
  · obtain ⟨job, hplan, hext, -⟩ := fsRecombPlan_of_fit hfit
    refine endsBusWrite_of_rule (unitOf_fsRecomb w) hwf hcfg ((fsRecombChecks_pass_iff w s).mpr h.1) h.2
      hplan hext ?_
    rwa [AllAdmitted, List.forall_mem_singleton]
  · obtain ⟨u, hu, hemit⟩ := select_reaches_emit h hy hfits
    have hbad := (refusedIn_singleton_ne_nil_iff _ _).mpr hdst
    refine endsBusWrite_of_failLosing hwf hbad
      (lt_of_covers_dstPart hcfg ((passed_compress_iff s).mpr h.2.1) hfits) ?_
    rw [exec_ccSelect, hu.runSelector_of_emitRefused (by omega) hemit ha hbad]
  · obtain ⟨u, hu, hemit⟩ := expand_reaches_emit h hx hy hfits
    have hbad := (refusedIn_singleton_ne_nil_iff _ _).mpr hdst
    refine endsBusWrite_of_failLosing hwf hbad
      (lt_of_covers_dstPart hcfg (passed_of_expands h).1 hfits) ?_
    rw [exec_ccExpand, hu.runSelector_of_emitRefused (by omega) hemit ha hbad]
  · obtain ⟨hpass, hc⟩ := passed_of_copies hbufs h0 hcap
    have hbad := (refusedIn_singleton_ne_nil_iff _ _).mpr hdst
    refine endsBusWrite_of_failLosing hwf hbad (lt_of_covers_dstPart hcfg hpass hcap) ?_
    rw [exec_ccExpand, runSelector_of_copyRefused hpass hc
      ((refusedIn_singleton_eq_nil_iff _ _).mpr hsrc) hbad]

end Sys2Proof.Proofs
end

section
/-!
PROOF. The round trip of CC.SELECT and CC.EXPAND (43_channel_compressor.md R165), and the data-memory accesses of
other agents (20_memory.md R73, R74).
-/

namespace Sys2Proof.Proofs

open Sys2Proof Sys2Proof.Machine Sys2Proof.Safety Sys2Proof.Laws

/-! ### Stored bytes read back -/

theorem readBytes_writeBytes {m : Memory} (h : Memory.wf m = true) (a : Nat) (bs : List Byte) :
    readBytes (writeBytes m a bs) a bs.length = bs := by
  refine List.ext_getElem (length_readBytes _ _ _) fun i h1 h2 => ?_
  have hi := getD_readBytes (writeBytes m a bs) a bs.length i h2 0
  rw [readByte_writeBytes h, if_pos (by omega), Nat.add_sub_cancel_left] at hi
  simpa [List.getD_eq_getElem?_getD, h1, h2] using hi

/-! ### The round trip (R165) -/

/-- A CC.SELECT that succeeds has ended from COMMIT, with its output at the destination. -/
theorem select_success {s t : State} (hquiet : isRaced [srcBuf s, dstBuf s] s = false)
    (hexec : exec .ccSelect s = .next t) (hb : t.busy = false) (herr : t.err = 0) :
    ∃ u, Outputs .compress s u ∧ t.cfg = s.cfg ∧ t.mem = u.mem ∧ t.algo = BitVec.ofNat 64 u.engine.bestK ∧
      t.outLen = BitVec.ofNat 64 (u.engine.bestLen.getD 0) := by
  obtain rfl := Host.Outcome.next.inj ((exec_ccSelect s).symm.trans hexec)
  obtain h | ⟨u, hu, ⟨hf, ht⟩ | ⟨e, -, hc, ht⟩⟩ := runSelector_cases .compress s
  · rw [h.busy] at hb
    cases hb
  · have hout := hu.stage
    rw [StageAt, hf] at hout
    obtain ⟨hcfg, hsrc, hdst, hcap, -⟩ := hu.regs
    have hnamed : ccNamed u = [srcBuf s, dstBuf s] := by
      rw [ccNamed, hsrc, dstBuf, hdst, hcap, dstBuf]
    have hquiet' : isRaced (ccNamed u) u = false := by
      rw [hnamed, isRaced_congr hcfg hu.goesOn.raced]
      exact hquiet
    rw [ht, conclude_of_quiet hquiet']
    exact ⟨u, hout, hcfg, rfl, rfl, rfl⟩
  · rw [ht] at herr
    obtain ⟨-, ht⟩ | ⟨-, ht⟩ := fsmError_cases hc <;> rw [ht] at herr <;> exact absurd herr (code_ne_zero _)

/-- CC.EXPAND of an empty source under tag 0. -/
theorem expand_of_empty {v : State} (hbufs : CcBuffersOk v) (hl : v.srcLen = 0) (halgo : v.algo = 0)
    (hquiet : isRaced [srcBuf v, dstBuf v] v = false) :
    ∃ t, exec .ccExpand v = .next t ∧ t.err = 0 ∧ t.outLen = 0 := by
  have hl' : v.srcLen.toNat = 0 := by rw [hl]; rfl
  refine ⟨_, ccExpandCopiesUnderNone v hbufs (by rw [halgo]; rfl) (by omega)
    (admitted_of_len_zero hl') (admitted_of_len_zero hl') hquiet, rfl, hl⟩

/-- Settles O57: the output is empty and copied, or it is what EMIT stored and the decompressor takes. -/
theorem compressorRoundTrip : Obligations.CompressorRoundTrip := by
  intro s t u hwf hcfg hquiet hexec hb herr hucfg humem husrc hulen hualgo hbufs hcap hdst huquiet hinverse
  obtain ⟨v, hout, htcfg, htmem, halgo, hlen⟩ := select_success hquiet hexec hb herr
  have hinput : (ccInput s).length = s.srcLen.toNat := length_readBytes _ _ _
  obtain ⟨hmem, -, hl, hbl, hbk⟩ | ⟨bs, hmem, hbl, -, hle, hok, hsel⟩ := hout
  · rw [hbl] at hlen
    rw [hbk rfl] at halgo
    obtain ⟨w, hw, hwerr, hwlen⟩ := expand_of_empty hbufs (hulen.trans hlen) (hualgo.trans halgo) huquiet
    refine ⟨w, hw, hwerr, hwlen.trans (BitVec.eq_of_toNat_eq hl.symm), ?_⟩
    rw [ccInput, hl]
    rfl
  · obtain ⟨hl, htag⟩ := hsel rfl
    obtain ⟨h1, hn⟩ := htag hcfg
    have hnonempty : ccInput s ≠ [] := fun h0 => hl (by rw [← hinput, h0]; rfl)
    obtain ⟨hne, ha0, ha1⟩ := hinverse hnonempty
    have hbytes : t.outLen.toNat = bs.length := by
      rw [hlen, hbl, Option.getD_some, BitVec.toNat_ofNat, Nat.mod_eq_of_lt (hle.trans_lt s.dstCap.isLt)]
    have htagNat : u.algo.toNat = v.engine.bestK := by
      have hlt := (capFields_lt_of_wellFormed hcfg).1
      rw [hualgo, halgo, BitVec.toNat_ofNat, Nat.mod_eq_of_lt (by omega)]
    have hsrcBuf : srcBuf u = dstPart s bs.length := by rw [srcBuf, husrc, hulen, hbytes, dstPart]
    have hpcfg : u.cfg = s.cfg := hucfg.trans htcfg
    have hexpands : Expands u := by
      refine ⟨hpcfg ▸ hcfg, hbufs, ?_, ?_, by omega, by rw [hpcfg]; omega⟩
      · rw [hulen]
        exact fun h0 => hne (BitVec.eq_of_toNat_eq h0)
      · rw [hsrcBuf, hpcfg]
        exact (refusedIn_singleton_eq_nil_iff _ _).mp hok
    rw [← hualgo] at ha0 ha1
    rw [← hinput] at hcap hdst
    refine ⟨_, ccExpandDecompresses u _ _ hexpands ha0 ha1 rfl hcap hdst huquiet, rfl, ?_, ?_⟩
    · rw [hinput]
      exact BitVec.ofNat_toNat _ _ |>.trans (BitVec.setWidth_eq _)
    · have hwfu : Memory.wf u.mem = true := by
        rw [humem, htmem, hmem]
        exact writeBytes_wf _ _ hwf
      rw [← hinput]
      exact readBytes_writeBytes hwfu _ _

/-! ### Other agents (R73, R74) -/

theorem namedNow_inputs (s : State) (rest : List Input) : namedNow { s with inputs := rest } = namedNow s := by
  have hnamed : ∀ i, namedBy i { s with inputs := rest } = namedBy i s := fun i => by cases i <;> rfl
  simp only [namedNow, hnamed]

theorem outputsNow_inputs (s : State) (rest : List Input) :
    outputsNow { s with inputs := rest } = outputsNow s := by
  have houtputs : ∀ i, outputsOf i { s with inputs := rest } = outputsOf i s := fun i => by cases i <;> rfl
  simp only [outputsNow, houtputs]

theorem meets_iff (a b : Buf) : meets a b = true ↔ ¬Apart a b := not_disjoint_iff a b

/-- When the write of another agent makes the outcome open. -/
theorem raced_agentWrite_iff (addr : Nat) (bs : List Byte) (s : State) :
    (agentWrite addr bs s).engine.raced = true ↔
      s.engine.raced = true ∨ ∃ b ∈ namedNow s, ¬Apart b ⟨addr, bs.length⟩ := by
  simp only [agentWrite, Bool.or_eq_true, List.any_eq_true, meets_iff]

theorem length_agentBytes (s : State) (addr n : Nat) : (agentBytes s addr n).length = n := by
  induction n generalizing addr with
  | zero => rfl
  | succ n ih => rw [agentBytes, List.length_cons, ih]

/-- Another agent reads the bytes of memory outside the running command's output buffers. -/
theorem getD_agentBytes {s : State} {addr n k : Nat} (hk : k < n)
    (hout : ∀ b ∈ outputsNow s, hasByte b (addr + k) = false) :
    (agentBytes s addr n).getD k 0 = readByte s.mem (addr + k) := by
  induction n generalizing addr k with
  | zero => omega
  | succ n ih =>
    cases k with
    | zero =>
      have hnone : (outputsNow s).any (fun b => hasByte b addr) = false :=
        List.any_eq_false.mpr fun b hb => by rw [show hasByte b addr = false from hout b hb]; decide
      rw [agentBytes, hnone, List.getD_cons_zero]
      rfl
    | succ k =>
      rw [show addr + (k + 1) = addr + 1 + k by omega] at hout ⊢
      rw [agentBytes, List.getD_cons_succ, ih (by omega) hout]

theorem applyInput_memWrite {s : State} {addr : Nat} {bs : List Byte} :
    applyInput (.memWrite addr bs) s =
      if addr + bs.length ≤ 2 ^ s.cfg.addrBits then .next (agentWrite addr bs s) else .fault .noSuchAddress := by
  simp only [applyInput, inDataSpace, decide_eq_true_eq]

theorem applyInput_memRead {s : State} {addr len : Nat} :
    applyInput (.memRead addr len) s =
      if addr + len ≤ 2 ^ s.cfg.addrBits then .next (agentRead addr len s) else .fault .noSuchAddress := by
  simp only [applyInput, inDataSpace, decide_eq_true_eq]

/-- Settles O58: the access as the agent makes it, in the data space or beyond. -/
theorem agentWriteStoresAndRaces : Obligations.AgentWriteStoresAndRaces := by
  refine ⟨fun s addr bs rest hwf h hspace => ?_, fun s addr len rest h hspace => ?_,
    fun s addr len bs rest => ⟨fun h hout => ?_, fun h hout => ?_⟩⟩
  · refine ⟨agentWrite addr bs { s with inputs := rest }, ?_, rfl, readByte_writeBytes hwf addr bs, ?_⟩
    · rw [step_of_input h, applyInput_memWrite, if_pos hspace]
    · rw [raced_agentWrite_iff, namedNow_inputs]
  · refine ⟨agentBytes { s with inputs := rest } addr len, (agentRead addr len { s with inputs := rest }).fresh,
      ?_, length_agentBytes _ _ _, fun k hk hbyte => ?_⟩
    · rw [step_of_input h, applyInput_memRead, if_pos hspace]
      rfl
    · rw [← outputsNow_inputs s rest] at hbyte
      exact getD_agentBytes hk hbyte
  · rw [step_of_input h, applyInput_memRead, if_neg hout.not_ge]
  · rw [step_of_input h, applyInput_memWrite, if_neg hout.not_ge]

end Sys2Proof.Proofs
end

section
/-!
PROOF. A command's outcome depends on data memory only through the buffers it names (20_memory.md R60): two states
that differ only in other bytes stay so, through the four phases of a rule and through every move of the FSM.
-/

namespace Sys2Proof.Proofs

open Sys2Proof Sys2Proof.Machine Sys2Proof.Safety Sys2Proof.Laws

/-! ### Reads within buffers on which two memories agree -/

/-- The memories agree on every byte of the buffers. -/
def AgreeOn (bufs : List Buf) (m m' : Memory) : Prop := ∀ a, Covers bufs a → readByte m' a = readByte m a

theorem AgreeOn.mono {bufs bufs' : List Buf} {m m' : Memory} (h : AgreeOn bufs m m')
    (hsub : ∀ a, Covers bufs' a → Covers bufs a) : AgreeOn bufs' m m' := fun a ha => h a (hsub a ha)

theorem AgreeOn.of_mem {bufs : List Buf} {m m' : Memory} {b : Buf} (h : AgreeOn bufs m m') (hb : b ∈ bufs)
    {x : Nat} (h1 : b.addr ≤ x) (h2 : x < b.addr + b.len) : readByte m' x = readByte m x :=
  h x (covers_of_mem hb ⟨h1, h2⟩)

theorem readBytes_of_agree {bufs : List Buf} {m m' : Memory} {a n : Nat} (h : AgreeOn bufs m m')
    (hb : ⟨a, n⟩ ∈ bufs) : readBytes m' a n = readBytes m a n :=
  readBytes_congr fun _ h1 h2 => h.of_mem hb h1 h2

theorem readWords_congr {m m' : Memory} {B a n : Nat}
    (h : ∀ x, a ≤ x → x < a + n * B → readByte m' x = readByte m x) :
    readWords m' B a n = readWords m B a n := by
  rw [readWords_eq_map, readWords_eq_map]
  refine List.map_congr_left fun i hi => ?_
  have hend := element_bytes_lt (B := B) (List.mem_range.mp hi)
  exact memRead_congr fun x h1 h2 => h x (by omega) (by omega)

theorem readWords_of_agree {bufs : List Buf} {m m' : Memory} {B a n : Nat} (h : AgreeOn bufs m m')
    (hb : ⟨a, n * B⟩ ∈ bufs) : readWords m' B a n = readWords m B a n :=
  readWords_congr fun _ h1 h2 => h.of_mem hb h1 h2

theorem packedWords_of_agree {w : Width} {s : State} {m' : Memory} (h : AgreeOn [srcBuf s] s.mem m') :
    packedWords w { s with mem := m' } = packedWords w s := by
  have hle : s.srcLen.toNat / wBytes w * wBytes w ≤ s.srcLen.toNat := Nat.div_mul_le_self _ _
  refine readWords_congr fun x h1 h2 => h.of_mem (List.mem_singleton_self _) h1 ?_
  calc x < s.srcAddr.toNat + s.srcLen.toNat / wBytes w * wBytes w := h2
    _ ≤ s.srcAddr.toNat + s.srcLen.toNat := Nat.add_le_add_left hle _

theorem srcElements_of_agree {w : Width} {s : State} {m' : Memory} (h : AgreeOn [srcArray w s] s.mem m') :
    srcElements w { s with mem := m' } = srcElements w s :=
  readWords_of_agree h (List.mem_singleton_self _)

/-- The first word of a field, and the second where it spans, are those the field touches (R110). -/
theorem fieldWords_of_agree {w : Width} {base o fw : Nat} {m m' : Memory}
    (h : AgreeOn (fieldWords w base o fw) m m') :
    memRead m' (base + wordIndex w o * wBytes w) (wBytes w) =
        memRead m (base + wordIndex w o * wBytes w) (wBytes w) ∧
      (spans w o fw = true → memRead m' (base + wordIndex w o * wBytes w + wBytes w) (wBytes w) =
        memRead m (base + wordIndex w o * wBytes w + wBytes w) (wBytes w)) := by
  by_cases hs : spans w o fw = true
  · simp only [fieldWords, hs, if_true] at h
    exact ⟨memRead_congr fun x h1 h2 => h.of_mem (List.mem_cons_self) h1 h2,
      fun _ => memRead_congr fun x h1 h2 => h.of_mem (List.mem_cons_of_mem _ (List.mem_singleton_self _)) h1 h2⟩
  · simp only [fieldWords, hs, if_false, Bool.false_eq_true] at h
    exact ⟨memRead_congr fun x h1 h2 => h.of_mem (List.mem_singleton_self _) h1 h2, fun hs' => absurd hs' hs⟩

/-! ### What READ prepares -/

theorem bsWrPlan_of_agree {w : Width} {s : State} {m' : Memory} (h : AgreeOn (bsWrWords w s) s.mem m') :
    bsWrPlan w { s with mem := m' } = bsWrPlan w s := by
  obtain ⟨h0, h1⟩ := fieldWords_of_agree h
  by_cases hs : spans w s.bitOffset.toNat s.fieldWidth.toNat = true
  · simp only [bsWrPlan, hs, if_true, h0, h1 hs]
    rfl
  · simp only [bsWrPlan, hs, Bool.false_eq_true, if_false, h0]
    rfl

theorem bsRdField_of_agree {w : Width} {s : State} {m' : Memory} (h : AgreeOn (bsRdWords w s) s.mem m') :
    bsRdField w { s with mem := m' } = bsRdField w s := by
  obtain ⟨h0, h1⟩ := fieldWords_of_agree h
  by_cases hs : spans w s.bitOffset.toNat s.fieldWidth.toNat = true
  · simp only [bsRdField, h0, h1 hs]
  · simp only [bsRdField, extractField, hs, Bool.false_eq_true, if_false, h0]

theorem bsRdPlan_of_agree {w : Width} {s : State} {m' : Memory} (h : AgreeOn (bsRdWords w s) s.mem m') :
    bsRdPlan w { s with mem := m' } = bsRdPlan w s := by
  simp only [bsRdPlan, bsRdField_of_agree h]

theorem bsPackPlan_of_agree {w : Width} {s : State} {m' : Memory} (h : AgreeOn [srcArray w s] s.mem m') :
    bsPackPlan w { s with mem := m' } = bsPackPlan w s := by
  simp only [bsPackPlan, srcElements_of_agree h]

theorem bsUnpackPlan_of_agree {w : Width} {s : State} {m' : Memory} (h : AgreeOn [srcBuf s] s.mem m') :
    bsUnpackPlan w { s with mem := m' } = bsUnpackPlan w s := by
  simp only [bsUnpackPlan, wordsJob, packedWords_of_agree h]

theorem ddEncPlan_of_agree {w : Width} {s : State} {m' : Memory} (h : AgreeOn [srcArray w s] s.mem m') :
    ddEncPlan w { s with mem := m' } = ddEncPlan w s := by
  simp only [ddEncPlan, signedElements, srcElements_of_agree h]
  rfl

theorem ddDecPlan_of_agree {w : Width} {s : State} {m' : Memory} (h : AgreeOn [srcBuf s] s.mem m') :
    ddDecPlan w { s with mem := m' } = ddDecPlan w s := by
  simp only [ddDecPlan, wordsJob, deltaDecoded, headerWidth, packedWords_of_agree h]

theorem fsSplitPlan_of_agree {w : Width} {s : State} {m' : Memory} (h : AgreeOn [srcArray w s] s.mem m') :
    fsSplitPlan w { s with mem := m' } = fsSplitPlan w s := by
  simp only [fsSplitPlan, srcElements_of_agree h]

theorem fsRecombPlan_of_agree {w : Width} {s : State} {m' : Memory}
    (h : AgreeOn (channelArrays w s) s.mem m') :
    fsRecombPlan w { s with mem := m' } = fsRecombPlan w s := by
  have hchannel : ∀ a : Word, ⟨a.toNat, s.count.toNat * wBytes w⟩ ∈ channelArrays w s →
      channelElements w { s with mem := m' } a = channelElements w s a := fun a ha => readWords_of_agree h ha
  simp only [fsRecombPlan, wordsJob, hchannel s.ch0Addr (by simp [channelArrays, ch0Array]),
    hchannel s.ch1Addr (by simp [channelArrays, ch1Array]),
    hchannel s.ch2Addr (by simp [channelArrays, ch2Array])]

/-- READ's plan depends on memory only through the bytes READ touches. -/
theorem plan_of_agree {i : Instr} {r : Rule} (hu : unitOf i = .rule r) {s : State} {m' : Memory}
    (h : AgreeOn (r.reads s) s.mem m') : r.plan { s with mem := m' } = r.plan s := by
  cases i <;> cases hu
  case bsWr32 | bsWr64 => exact bsWrPlan_of_agree h
  case bsRd32 | bsRd64 => exact bsRdPlan_of_agree h
  case bsPack32 | bsPack64 => exact bsPackPlan_of_agree h
  case bsUnpack32 | bsUnpack64 => exact bsUnpackPlan_of_agree h
  case ddEnc32 | ddEnc64 => exact ddEncPlan_of_agree h
  case ddDec32 | ddDec64 => exact ddDecPlan_of_agree h
  case fsSplit32 | fsSplit64 => exact fsSplitPlan_of_agree h
  case fsRecomb32 | fsRecomb64 => exact fsRecombPlan_of_agree h

/-- Checks and buffers do not look at memory. -/
theorem rule_mem {i : Instr} {r : Rule} (hu : unitOf i = .rule r) (s : State) (m' : Memory) :
    r.checks { s with mem := m' } = r.checks s ∧ r.reads { s with mem := m' } = r.reads s ∧
      r.named { s with mem := m' } = r.named s := by
  cases i <;> cases hu <;> exact ⟨rfl, rfl, rfl⟩

/-! ### States that differ only in other bytes -/

/-- The states differ only in data memory, and not on a byte of the named buffers. -/
structure Alike (named : List Buf) (s t : State) : Prop where
  frame : t = { s with mem := t.mem }
  wf : Memory.wf s.mem = true
  wf' : Memory.wf t.mem = true
  agree : AgreeOn named s.mem t.mem

variable {named : List Buf} {s t : State}

/-- A change that neither reads nor writes memory. -/
theorem Alike.map (h : Alike named s t) {f : State → State}
    (hf : ∀ u m, f { u with mem := m } = { f u with mem := m }) : Alike named (f s) (f t) := by
  have hs := congrArg State.mem (hf s s.mem)
  change (f s).mem = s.mem at hs
  have ht : f t = { f s with mem := t.mem } := by
    conv_lhs => rw [h.frame]
    exact hf s t.mem
  have htm : (f t).mem = t.mem := by rw [ht]
  refine ⟨?_, hs ▸ h.wf, htm ▸ h.wf', ?_⟩
  · rw [htm]
    exact ht
  · rw [hs, htm]
    exact h.agree

/-- Bytes that are stored are stored alike. -/
theorem agreeOn_writeBytes {m m' : Memory} (h : AgreeOn named m m') (hwf : Memory.wf m = true)
    (hwf' : Memory.wf m' = true) (a : Nat) (bs : List Byte) :
    AgreeOn named (writeBytes m a bs) (writeBytes m' a bs) := fun x hx => by
  rw [readByte_writeBytes hwf, readByte_writeBytes hwf', h x hx]

theorem agreeOn_storePieces {m m' : Memory} (h : AgreeOn named m m') (hwf : Memory.wf m = true)
    (hwf' : Memory.wf m' = true) (ps : List Piece) :
    AgreeOn named (storePieces m ps) (storePieces m' ps) := by
  induction ps generalizing m m' with
  | nil => exact h
  | cons p ps ih =>
    exact ih (agreeOn_writeBytes h hwf hwf' _ _) (writeBytes_wf _ _ hwf) (writeBytes_wf _ _ hwf')

theorem agreeOn_scribble {m m' : Memory} (h : AgreeOn named m m') (hwf : Memory.wf m = true)
    (hwf' : Memory.wf m' = true) (f : Nat → Byte) (x : List Buf) :
    AgreeOn named (scribble f m x) (scribble f m' x) := by
  induction x generalizing m m' with
  | nil => exact h
  | cons b x ih =>
    refine ih (fun a ha => ?_) (scribbleFrom_wf _ _ _ hwf) (scribbleFrom_wf _ _ _ hwf')
    rw [readByte_scribbleFrom f hwf, readByte_scribbleFrom f hwf', h a ha]

/-- Both memories are changed, and the changed ones agree. -/
theorem Alike.withMem {m m' : Memory} (h : Alike named s t) (hwf : Memory.wf m = true)
    (hwf' : Memory.wf m' = true) (hagree : AgreeOn named m m') :
    Alike named { s with mem := m } { t with mem := m' } := by
  refine ⟨?_, hwf, hwf', hagree⟩
  conv_lhs => rw [h.frame]

theorem Alike.storePieces (h : Alike named s t) (ps : List Piece) :
    Alike named { s with mem := Machine.storePieces s.mem ps } { t with mem := Machine.storePieces t.mem ps } :=
  h.withMem (storePieces_wf ps h.wf) (storePieces_wf ps h.wf') (agreeOn_storePieces h.agree h.wf h.wf' ps)

theorem Alike.stored (h : Alike named s t) (bs : List Byte) :
    Alike named (Proofs.stored bs s) (Proofs.stored bs t) := by
  have haddr : t.dstAddr = s.dstAddr := by rw [h.frame]
  refine h.withMem (writeBytes_wf _ bs h.wf) (writeBytes_wf _ bs h.wf') ?_
  rw [haddr]
  exact agreeOn_writeBytes h.agree h.wf h.wf' _ bs

theorem Alike.loseExtent (h : Alike named s t) (x : List Buf) :
    Alike named (s.loseExtent x) (t.loseExtent x) := by
  have hfresh : t.fresh = s.fresh := by rw [h.frame]
  have hlost := agreeOn_scribble h.agree h.wf h.wf' (Config.freeByte s.fresh) x
  rw [State.loseExtent, State.loseExtent, hfresh]
  exact (h.withMem (scribble_wf _ x h.wf) (scribble_wf _ x h.wf') hlost).map
    (f := fun u => { u with fresh := s.fresh + 1 }) fun _ _ => rfl

theorem Alike.fail (h : Alike named s t) (e : Cause) : Alike named (s.fail e) (t.fail e) :=
  h.map fun _ _ => rfl

theorem Alike.failLosing (h : Alike named s t) (x : List Buf) (e : Cause) :
    Alike named (s.failLosing x e) (t.failLosing x e) := (h.loseExtent x).fail e

theorem Alike.conclude (h : Alike named s t) (bufs x : List Buf) (c : Commit) :
    Alike named (Machine.conclude bufs x c s) (Machine.conclude bufs x c t) := by
  have hraced : isRaced bufs t = isRaced bufs s := by rw [h.frame]; rfl
  have hfresh : t.fresh = s.fresh := by rw [h.frame]
  by_cases hr : isRaced bufs s = true
  · rw [conclude_of_raced hr, conclude_of_raced (hraced.trans hr), hfresh]
    exact (h.loseExtent x).map fun _ _ => rfl
  · rw [Bool.not_eq_true] at hr
    rw [conclude_of_quiet hr, conclude_of_quiet (hraced.trans hr)]
    exact h.map fun _ _ => rfl

/-! ### A rule -/

/-- Both runs of a rule take the same way. -/
theorem Alike.runRule {i : Instr} {r : Rule} (hu : unitOf i = .rule r) (h : Alike (namedBy i s) s t) :
    Alike (namedBy i s) (Machine.runRule r s) (Machine.runRule r t) := by
  have hsound := rule_sound hu s
  have hcfg : t.cfg = s.cfg := by rw [h.frame]
  have hfresh : t.fresh = s.fresh := by rw [h.frame]
  obtain ⟨hchecks, hreads, hnamed⟩ := rule_mem hu s t.mem
  rw [← h.frame] at hchecks hreads hnamed
  rcases hc : firstFailure (r.checks s) with _ | e
  · have hplan : r.plan t = r.plan s := by
      conv_lhs => rw [h.frame]
      exact plan_of_agree hu (h.agree.mono (hsound.reads hc))
    have hread : readPhase r t = readPhase r s := by
      simp only [readPhase, busReadCause, hcfg, hfresh, hreads, hplan]
    rcases hr : readPhase r s with e | job
    · rw [runRule_of_readError hc hr, runRule_of_readError (hchecks ▸ hc) (hread.trans hr)]
      exact h.fail e
    · by_cases hw : refusedIn s.cfg (extentOf job.out) = []
      · rw [runRule_of_admitted hc hr hw, runRule_of_admitted (hchecks ▸ hc) (hread.trans hr) (hcfg ▸ hw), hnamed]
        exact (h.storePieces job.out).conclude _ _ _
      · rw [runRule_of_writeRefused hc hr hw,
          runRule_of_writeRefused (hchecks ▸ hc) (hread.trans hr) (hcfg ▸ hw), failWrite, failWrite]
        simp only [busWriteCause, hcfg, hfresh]
        exact h.failLosing _ _
  · rw [runRule_of_check hc, runRule_of_check (hchecks ▸ hc)]
    exact h.fail e

/-! ### A move of the FSM -/

theorem fsmCheck_mem (op : PortOp) (u : State) (m : Memory) :
    fsmCheck op { u with mem := m } = { fsmCheck op u with mem := m } := by
  have hchecks : ccChecks op { u with mem := m } = ccChecks op u := by cases op <;> rfl
  rcases h : firstFailure (ccChecks op u) with _ | e
  · have h' : firstFailure (ccChecks op { u with mem := m }) = none := by rw [hchecks, h]
    by_cases hc : Copies op u
    · rw [fsmCheck_of_copies h hc, fsmCheck_of_copies h' hc]
      rfl
    · by_cases hl : u.srcLen.toNat = 0
      · rw [fsmCheck_of_empty h hc hl, fsmCheck_of_empty h' hc hl]
        cases op <;> rfl
      · rw [fsmCheck_of_input h hc hl, fsmCheck_of_input h' hc hl]
        cases op <;> rfl
  · rw [fsmCheck_of_failure h, fsmCheck_of_failure (by rw [hchecks, h])]
    rfl

theorem fsmPick_mem (u : State) (m : Memory) : fsmPick { u with mem := m } = { fsmPick u with mem := m } := by
  simp only [fsmPick]
  split <;> rfl

theorem sizeAnswer_mem (op : PortOp) (r : Response) (u : State) (m : Memory) :
    sizeAnswer op r { u with mem := m } = { sizeAnswer op r u with mem := m } := by
  cases r with
  | fail => rfl
  | ok bs =>
    have hconsider : ∀ len, consider op len { u with mem := m } = { consider op len u with mem := m } := fun len => by
      simp only [consider]
      split <;> rfl
    by_cases hk : op = .compress ∧ u.engine.k < u.cfg.nAlgo
    · obtain ⟨rfl, hk⟩ := hk
      rw [sizeAnswer_next hk, sizeAnswer_next (s := { u with mem := m }) hk, hconsider]
      rfl
    · have hk' : op = .compress → u.cfg.nAlgo ≤ u.engine.k := fun h => not_lt.mp fun h' => hk ⟨h, h'⟩
      rw [sizeAnswer_last hk', sizeAnswer_last (s := { u with mem := m }) hk', hconsider]
      rfl

theorem Alike.storeOutput (h : Alike named s t) (bs : List Byte) :
    Alike named (Machine.storeOutput bs s) (Machine.storeOutput bs t) := by
  have hcfg : t.cfg = s.cfg := by rw [h.frame]
  have hext : t.engine.extent = s.engine.extent := by rw [h.frame]
  have hfresh : t.fresh = s.fresh := by rw [h.frame]
  by_cases hok : refusedIn s.cfg s.engine.extent = []
  · rw [storeOutput_of_admitted hok, storeOutput_of_admitted (by rwa [hcfg, hext])]
    exact (h.stored bs).map fun _ _ => rfl
  · rw [storeOutput_of_refused hok, storeOutput_of_refused (by rwa [hcfg, hext])]
    simp only [busWriteCause, hcfg, hext, hfresh]
    exact h.map fun _ _ => rfl

theorem Alike.emitAnswer (h : Alike named s t) (r : Response) :
    Alike named (Machine.emitAnswer r s) (Machine.emitAnswer r t) := by
  have hlen : t.engine.bestLen = s.engine.bestLen := by rw [h.frame]
  have hk : t.engine.bestK = s.engine.bestK := by rw [h.frame]
  by_cases hr : Differs r s
  · rw [emitAnswer_of_differs hr, emitAnswer_of_differs (by rwa [Differs, hlen]), hk]
    exact h.map fun _ _ => rfl
  · simp only [Differs, not_forall, not_not] at hr
    obtain ⟨bs, rfl, hr⟩ := hr
    rw [emitAnswer_of_same hr, emitAnswer_of_same (hlen.trans hr)]
    exact h.storeOutput bs

theorem Alike.answerAt (h : Alike named s t) (j : Nat) (q : Request) : answerAt t j q = answerAt s j q := by
  rw [h.frame]
  rfl

theorem Alike.fsmEmit (h : Alike named s t) (op : PortOp) :
    Alike named (Machine.fsmEmit op s) (Machine.fsmEmit op t) := by
  have hreq : emitRequest op t = emitRequest op s := by rw [h.frame]; rfl
  have hserved : Alike named (served s) (served t) := h.map fun _ _ => rfl
  rcases ha : Safety.answerAt s 0 (emitRequest op s) with _ | r
  · rw [fsmEmit_of_withheld ha, fsmEmit_of_withheld (by rwa [h.answerAt, hreq]), hreq]
    exact hserved.map fun _ _ => rfl
  · rw [fsmEmit_of_answer ha, fsmEmit_of_answer (by rwa [h.answerAt, hreq])]
    exact hserved.emitAnswer r

/-- The input is the same where the source is named. -/
theorem Alike.ccInput (h : Alike named s t) (hsrc : ∀ a, Covers [srcBuf s] a → Covers named a) :
    Machine.ccInput t = Machine.ccInput s := by
  conv_lhs => rw [h.frame]
  exact readBytes_of_agree (h.agree.mono hsrc) (List.mem_singleton_self _)

theorem Alike.fsmSize (h : Alike named s t) (op : PortOp) (hsrc : ∀ a, Covers [srcBuf s] a → Covers named a) :
    Alike named (Machine.fsmSize op s) (Machine.fsmSize op t) := by
  have hcfg : t.cfg = s.cfg := by rw [h.frame]
  have hbuf : srcBuf t = srcBuf s := by rw [h.frame]; rfl
  have hk : t.engine.k = s.engine.k := by rw [h.frame]
  have hinput : t.engine.input = s.engine.input := by rw [h.frame]
  have hfresh : t.fresh = s.fresh := by rw [h.frame]
  by_cases hin : ∃ bs, SizeInput s bs
  · obtain ⟨bs, hin⟩ := hin
    have hin' : SizeInput t bs := by
      rwa [SizeInput, hinput, hcfg, hbuf, h.ccInput hsrc]
    have hasked : Alike named (asked bs s) (asked bs t) := h.map fun _ _ => rfl
    rcases ha : Safety.answerAt s 0 ⟨op, s.engine.k, bs⟩ with _ | r
    · rw [fsmSize_of_withheld hin ha, fsmSize_of_withheld hin' (by rwa [h.answerAt, hk]), hk]
      exact hasked.map fun _ _ => rfl
    · rw [fsmSize_of_answer hin ha, fsmSize_of_answer hin' (by rwa [h.answerAt, hk])]
      exact hasked.map (sizeAnswer_mem op r)
  · rcases hi : s.engine.input with _ | bs
    · have hr : refusedIn s.cfg [srcBuf s] ≠ [] := fun h0 => hin ⟨_, .inr ⟨hi, h0, rfl⟩⟩
      rw [fsmSize_of_refused hi hr, fsmSize_of_refused (hinput.trans hi) (by rwa [hcfg, hbuf])]
      simp only [busReadCause, hcfg, hbuf, hfresh]
      exact h.map fun _ _ => rfl
    · exact absurd ⟨bs, .inl hi⟩ hin

theorem Alike.fsmCopy (h : Alike named s t) (hsrc : ∀ a, Covers [srcBuf s] a → Covers named a) :
    Alike named (Machine.fsmCopy s) (Machine.fsmCopy t) := by
  have hcfg : t.cfg = s.cfg := by rw [h.frame]
  have hbuf : srcBuf t = srcBuf s := by rw [h.frame]; rfl
  have hfresh : t.fresh = s.fresh := by rw [h.frame]
  by_cases hr : refusedIn s.cfg [srcBuf s] = []
  · rw [fsmCopy_of_admitted hr, fsmCopy_of_admitted (by rwa [hcfg, hbuf]), h.ccInput hsrc]
    have hcopying : Alike named (copying s) (copying t) := h.map fun _ _ => rfl
    exact hcopying.storeOutput _
  · rw [fsmCopy_of_refused hr, fsmCopy_of_refused (by rwa [hcfg, hbuf])]
    simp only [busReadCause, hcfg, hbuf, hfresh]
    exact h.map fun _ _ => rfl

theorem Alike.fsmError (h : Alike named s t) : Alike named (Machine.fsmError s) (Machine.fsmError t) := by
  have hcause : t.engine.cause = s.engine.cause := by rw [h.frame]
  have hext : t.engine.extent = s.engine.extent := by rw [h.frame]
  simp only [Machine.fsmError, hcause, hext]
  split
  · exact h.fail _
  · exact h.failLosing _ _
  · exact h

theorem Alike.fsmMove (h : Alike named s t) (op : PortOp) (hsrc : ∀ a, Covers [srcBuf s] a → Covers named a) :
    Alike named (Machine.fsmMove op s) (Machine.fsmMove op t) := by
  have hreq : t.engine.request = s.engine.request := by rw [h.frame]
  have hfsm : t.engine.fsm = s.engine.fsm := by rw [h.frame]
  have hext : t.engine.extent = s.engine.extent := by rw [h.frame]
  have hnamed : ccNamed t = ccNamed s := by rw [h.frame]; rfl
  have hcommit : ccCommit op t = ccCommit op s := by rw [h.frame]; rfl
  rw [Machine.fsmMove, Machine.fsmMove, hreq, hfsm, hext, hnamed, hcommit]
  split
  · exact h
  · split
    · exact h.map (f := fun u => { u with engine := { u.engine with fsm := .check } }) fun _ _ => rfl
    · exact h.map (fsmCheck_mem op)
    · exact h.fsmSize op hsrc
    · exact h.map fsmPick_mem
    · exact h.fsmEmit op
    · exact h.fsmCopy hsrc
    · exact h.conclude _ _ _
    · exact h.fsmError

/-! ### A CC command -/

theorem Alike.fsmRun (op : PortOp) (n : Nat) (h : Alike named s t)
    (hsrc : ∀ a, Covers [srcBuf s] a → Covers named a) :
    Alike named (Machine.fsmRun op n s) (Machine.fsmRun op n t) := by
  induction n generalizing s t with
  | zero => exact h
  | succ n ih =>
    have hbusy : t.busy = s.busy := by rw [h.frame]; rfl
    have hreq : t.engine.request = s.engine.request := by rw [h.frame]
    rcases hb : s.busy with _ | _
    · rwa [fsmRun_of_idle hb, fsmRun_of_idle (hbusy.trans hb)]
    · rcases hq : s.engine.request with _ | q
      · rw [fsmRun_succ hb hq, fsmRun_succ (hbusy.trans hb) (hreq.trans hq)]
        have hmove := h.fsmMove op hsrc
        obtain hgo | hends := (fsmMove_row op hq).goesOn_or_ends
        · refine ih hmove fun a ha => hsrc a ?_
          rwa [show srcBuf (Machine.fsmMove op s) = srcBuf s by rw [hgo.frame]; rfl] at ha
        · have hidle := idle_of_ends hends
          have hidle' : (Machine.fsmMove op t).busy = false := by
            rw [hmove.frame]
            exact hidle
          rwa [fsmRun_of_idle hidle, fsmRun_of_idle hidle']
      · have hwait : s.engine.request.isSome = true := by rw [hq]; rfl
        rwa [fsmRun_of_waiting hwait, fsmRun_of_waiting (by rw [hreq]; exact hwait)]

theorem Alike.runSelector (op : PortOp) (h : Alike (ccNamed s) s t) :
    Alike (ccNamed s) (Machine.runSelector op s) (Machine.runSelector op t) := by
  have hcfg : t.cfg = s.cfg := by rw [h.frame]
  have hstart : Alike (ccNamed s) (enterCheck s) (enterCheck t) := h.map fun _ _ => rfl
  rw [Machine.runSelector, Machine.runSelector, hcfg]
  exact hstart.fsmRun op _ fun a ha => covers_named_of_src ha

/-- Settles O27: the two runs stay alike. -/
theorem onlyNamedBuffersMatter : Obligations.OnlyNamedBuffersMatter := by
  intro i s t t' m' hwf hwf' hagree hexec hexec'
  have hstart : Alike (namedBy i s) s { s with mem := m' } :=
    ⟨rfl, hwf, hwf', fun a ⟨b, hb, ha⟩ => hagree b hb a ha⟩
  rw [exec_eq_unit] at hexec hexec'
  obtain rfl := Host.Outcome.next.inj hexec
  obtain rfl := Host.Outcome.next.inj hexec'
  have hend : ∀ {u u' : State}, Alike (namedBy i s) u u' → u' = { u with mem := u'.mem } ∧
      ∀ b ∈ namedBy i s, ∀ a, hasByte b a = true → readByte u'.mem a = readByte u.mem a := fun h =>
    ⟨h.frame, fun b hb a ha => h.agree a ⟨b, hb, ha⟩⟩
  rcases hu : unitOf i with r | op
  · exact hend (hstart.runRule hu)
  · have hnamed : namedBy i s = ccNamed s := by simp only [namedBy, hu]
    rw [hnamed] at hstart
    have hrun := hstart.runSelector op
    rw [← hnamed] at hrun
    exact hend hrun

end Sys2Proof.Proofs
end
